-- ==== Sys2Proof/Word.lean ====
section
/-! DEFINITION. The word types of the VBI bit-slicer (spec/00_scope.md rule R12): bit 0 is the least significant bit,
registers are unsigned. Only names of widths stand here. -/

namespace Sys2Proof

/-- A byte of RAW or OUT (spec/20_memory.md rule R60). -/
abbrev Byte := BitVec 8

/-- A host-visible register value, `REG_BITS = 32` (spec/00_scope.md rule R7). -/
abbrev Word := BitVec 32

/-- A 40-bit host transaction word `T` (spec/30_encoding.md rule R90). -/
abbrev Transaction := BitVec 40

/-- A candidate-slot byte, one signed `i8` per slot, held as its bit pattern (spec/30_encoding.md rule R100). -/
abbrev Slot := BitVec 8

/-- One row of the candidate-slot memory: its 8 slots, slot 0 (the front) first (spec/10_state.md rule R36). -/
abbrev Row := List Slot

end Sys2Proof
end

