-- ==== Sys2Proof/Syntax.lean ====
section
/-! DEFINITION. The instructions: one constructor per row of spec/opcode_table.json (spec/30_encoding.md rules R90 to R98). -/

namespace Sys2Proof

/-- One host transaction. The five commands are the legal command words of a write to `CMD`; every other write to `CMD` is
`wr 0x7F data` and answers `BAD_CMD` (spec/30_encoding.md rule R99). -/
inductive Instr where
  /-- `RD reg`: a register read; `DATA` is ignored (rule R91). -/
  | rd (reg : BitVec 7)
  /-- `WR reg, data`: a register write (rule R92). -/
  | wr (reg : BitVec 7) (data : BitVec 32)
  /-- `RESET`, `OP = 0x01`. -/
  | reset
  /-- `JOBADD`, `OP = 0x02`. -/
  | jobadd
  /-- `RMSVC`, `OP = 0x03`. -/
  | rmsvc
  /-- `DECODE`, `OP = 0x04`. -/
  | decode
  /-- `SLICE a, b`, `OP = 0x05`: Job index `a`, OUT record index `b`. -/
  | slice (a : BitVec 3) (b : BitVec 16)
  deriving DecidableEq, Repr

end Sys2Proof
end

