-- ==== Sys2Proof/WellFormed.lean ====
section
/-! DEFINITION. Which terms of `Instr` are the reading of some transaction word (spec/30_encoding.md rules R92, R99): a
write to `CMD` (register 0x7F) stands as `wr` only when its `DATA` is an illegal command word, since the legal ones are the
five command instructions. The other operands are bounded by their types. -/

namespace Sys2Proof

/-- The register number of `CMD` (rule R94). -/
abbrev cmdNumber : BitVec 7 := 0x7F

/-- Rule R99 as it stands: a command word is illegal when `OP` is none of 0x01..0x05, or `OP` is 0x01..0x04 and `A ≠ 0` or
`B ≠ 0`, or `OP = 0x05` and `A > 7`. -/
def illegalCommand (w : BitVec 32) : Bool :=
  let op := w.toNat % 256
  let a := w.toNat / 256 % 256
  let b := w.toNat / 65536
  (op == 0 || decide (5 < op)) || (decide (1 ≤ op) && decide (op ≤ 4) && (a != 0 || b != 0)) || (op == 5 && decide (7 < a))

/-- An instruction is well formed when some transaction word stands for it. -/
def Instr.wellFormed : Instr → Bool
  | .rd _ => true
  | .wr reg data => reg != cmdNumber || illegalCommand data
  | .reset => true
  | .jobadd => true
  | .rmsvc => true
  | .decode => true
  | .slice _ _ => true

end Sys2Proof
end

