-- ==== Sys2Proof/Decode.lean ====
section
/-! DEFINITION. The decoder of transaction words (spec/30_encoding.md rules R90 to R99) and, after it, the encoder. Every
40-bit word is an instruction (rules R91, R92, R99 and R106 give every one an effect); what the decoder rejects, by name, is
a number that is no 40-bit word. A transaction word is never stored in a memory, so no byte order arises (rule R63 (e)). -/

namespace Sys2Proof

/-! ## Fields -/

/-- `WR`, bit 39 (rule R90). -/
def wrField (t : Transaction) : Bool := t.getLsbD 39
/-- `REG`, bits 38:32 (rule R90). -/
def regField (t : Transaction) : BitVec 7 := t.extractLsb' 32 7
/-- `DATA`, bits 31:0 (rule R90). -/
def dataField (t : Transaction) : BitVec 32 := t.extractLsb' 0 32

/-- `OP`, bits 7:0 of a command word (rule R93). -/
def commandOp (w : BitVec 32) : BitVec 8 := w.extractLsb' 0 8
/-- `A`, bits 15:8 of a command word (rule R93). -/
def commandA (w : BitVec 32) : BitVec 8 := w.extractLsb' 8 8
/-- `B`, bits 31:16 of a command word (rule R93). -/
def commandB (w : BitVec 32) : BitVec 16 := w.extractLsb' 16 16

/-! ## Decoding -/

/-- The command a command word encodes (rule R98); `none` when the word is illegal (rule R99). -/
def commandOf (w : BitVec 32) : Option Instr :=
  if commandOp w = 0x05 then
    if (commandA w).toNat ≤ 7 then some (.slice ((commandA w).extractLsb' 0 3) (commandB w)) else none
  else if commandA w = 0 ∧ commandB w = 0 then
    if commandOp w = 0x01 then some .reset
    else if commandOp w = 0x02 then some .jobadd
    else if commandOp w = 0x03 then some .rmsvc
    else if commandOp w = 0x04 then some .decode
    else none
  else none

/-- The instruction a transaction word stands for. -/
def decode (t : Transaction) : Instr :=
  if wrField t then
    if regField t = cmdNumber then (commandOf (dataField t)).getD (.wr (regField t) (dataField t))
    else .wr (regField t) (dataField t)
  else .rd (regField t)

/-- Why a number is rejected as a transaction word. -/
inductive DecodeError where
  /-- The number has a bit set above bit 39, so it is no 40-bit transaction word (rule R90). -/
  | widerThanTransaction
  deriving DecidableEq, Repr

/-- Decoding of an arbitrary number: total, and rejecting by name. -/
def decodeNumber (w : Nat) : Except DecodeError Instr :=
  if w < 2 ^ 40 then .ok (decode (BitVec.ofNat 40 w)) else .error .widerThanTransaction

/-- The instruction whose bits, numbered as spec/opcode_table.json numbers them, are the low `nbits` bits of `w`; every bit
above is 0. -/
def decodeTableWord (nbits w : Nat) : Option Instr :=
  match decodeNumber (w % 2 ^ nbits) with
  | .ok i => some i
  | .error _ => none

/-! ## Encoding -/

/-- A command word from its fields (rule R93). -/
def commandWord (op a : BitVec 8) (b : BitVec 16) : BitVec 32 := b ++ a ++ op

/-- A transaction word from its fields (rule R90). -/
def transactionWord (wr : BitVec 1) (reg : BitVec 7) (data : BitVec 32) : Transaction := wr ++ reg ++ data

/-- The transaction word of an instruction (rules R90, R98, R107; the table's match values). -/
def encode : Instr → Transaction
  | .rd reg => transactionWord 0 reg 0
  | .wr reg data => transactionWord 1 reg data
  | .reset => transactionWord 1 cmdNumber (commandWord 0x01 0 0)
  | .jobadd => transactionWord 1 cmdNumber (commandWord 0x02 0 0)
  | .rmsvc => transactionWord 1 cmdNumber (commandWord 0x03 0 0)
  | .decode => transactionWord 1 cmdNumber (commandWord 0x04 0 0)
  | .slice a b => transactionWord 1 cmdNumber (commandWord 0x05 (a.setWidth 8) b)

end Sys2Proof
end

