-- ==== Sys2Proof/Config.lean ====
section
/-! DEFINITION. What one implementation of the block fixes: the constants of spec/00_scope.md rules R6 and R7, the OPEN
parameters of rules R8 and R9 as plain data, and the FREE VALUES: constants without a body that stand for what the spec
leaves undefined or unstated. No statement may rest on the value of a constant without a body. -/

namespace Sys2Proof.Config

/-! ## Constants (rules R6, R7) -/

/-- `OVERSAMPLING` (R6): ticks per physical sample. -/
def oversampling : Nat := 4
/-- `PHASE_FRAC` (R6): fractional bits of the sample-position accumulator. -/
def phaseFrac : Nat := 8
/-- `MAX_JOBS` (R6): capacity of the Job collection. -/
def maxJobs : Nat := 8
/-- `MAX_WAYS` (R6): candidate slots per row. -/
def maxWays : Nat := 8
/-- `DWELL` (R6): frames of forced re-testing after a hit or a registration. -/
def dwell : Nat := 128
/-- `SYNC_BITS_MAX` (R6): largest CRI bit count and largest FRC bit count. -/
def syncBitsMax : Nat := 32
/-- `THRESH_FRAC` (R7): fractional bits of the threshold register. -/
def threshFrac : Nat := 9
/-- `THRESH_INIT` (R7): initial threshold in 8-bit sample units. -/
def threshInit : Nat := 105
/-- `PAYLOAD_BUF` (R7): bytes of the payload buffer of a SlicedRecord. -/
def payloadBuf : Nat := 56
/-- `RECORD_BYTES` (R7): 4 + 4 + `PAYLOAD_BUF`. -/
def recordBytes : Nat := 64
/-- The largest sampling, CRI and payload rate JOBADD accepts, `2^28` (spec/42_config.md rule R201, condition 4). -/
def maxRate : Nat := 2 ^ 28

/-! ## The pixel-format descriptor type (spec/40_sample_demux.md rule R121) -/

/-- A pixel-format descriptor: how the sampled channel of a pixel is read. -/
structure PixelDescriptor where
  /-- bytes from one sample to the next -/
  stride : Nat
  /-- byte offset, inside a pixel, of the unit that holds the sampled channel -/
  skip : Nat
  /-- true: two bytes are read per sample; false: one -/
  wide : Bool
  /-- for a two-byte unit: the byte at the lower address is the high byte -/
  be : Bool
  /-- bit position of the channel's least significant bit inside the unit -/
  shift : Nat
  /-- bits of the channel -/
  width : Nat
  deriving DecidableEq, Repr, Inhabited

/-- `unit` of rule R121: bytes read per sample, 1 or 2. -/
def PixelDescriptor.unitBytes (d : PixelDescriptor) : Nat := if d.wide then 2 else 1

/-! ## The OPEN parameters of the block (rule R8) -/

/-- The OPEN parameters of one block, as plain data. `check` is the parameter `CHECK(id, bytes)` written as the list of the
(identifier, payload) pairs it REJECTS: an identifier has 32 bits and a payload at most 56 bytes, so every function `CHECK`
is such a list, and the empty list is the spec's default (always true). -/
structure Params where
  /-- `MAX_LINES`: rows of the candidate-slot memory PAT -/
  maxLines : Nat
  /-- `OUT_RECORDS`: records the OUT memory holds -/
  outRecords : Nat
  /-- `CHECK`: the pairs for which the extra validation is false -/
  rejected : List (Word × List Byte)
  deriving DecidableEq, Repr

/-- The parameters of the instance `State.reset` describes: the sizes the spec's own test vectors use
(spec/95_test_vectors.md, conventions) and the default `CHECK`. DESIGN CHOICE, notes/assumptions/2.md. -/
def defaultParams : Params := { maxLines := 64, outRecords := 64, rejected := [] }

/-! ## The parameters of the host procedures (rules R8, R9) -/

/-- One entry of `SERVICE_TABLE` (rule R9). `scan525`, `scan625` are the subset `scan` of the two standards. -/
structure ServiceEntry where
  id : Word
  scan525 : Bool
  scan625 : Bool
  first0 : Nat
  first1 : Nat
  last0 : Nat
  last1 : Nat
  offsetNs : Nat
  criRate : Word
  bitRate : Word
  criFrc : Word
  criMask : Word
  criBits : BitVec 6
  frcBits : BitVec 6
  payloadBits : Word
  modulation : BitVec 2
  group : Word
  deriving DecidableEq, Repr

/-- The parameters of the host procedures ADDSVC and PARAMS (rule R8): the catalogue and its margins. -/
structure HostParams where
  /-- `SERVICE_TABLE` -/
  table : List ServiceEntry
  /-- `WIN_MARGIN_NS` -/
  winMarginNs : Nat
  /-- `LEN_MARGIN_NS` -/
  lenMarginNs : Nat
  /-- `BURST_END_NS(525)` -/
  burstEnd525 : Nat
  /-- `BURST_END_NS(625)` -/
  burstEnd625 : Nat
  /-- `REF_RATE` -/
  refRate : Nat
  deriving DecidableEq, Repr

/-! ## The slicer's working registers, as a type (spec/10_state.md rules R20 to R27) -/

/-- The working registers of the slicer, at the widths rules R21 to R27 call enough. -/
structure SlicerRegs where
  /-- R21: the integer part of the tracked threshold -/
  tr : BitVec 23
  /-- R22: the threshold at entry to SLICE -/
  thresh0 : BitVec 32
  /-- R23: the fractional-rate phase counter -/
  cl : BitVec 32
  /-- R24: the running correlation register -/
  c : BitVec 32
  /-- R25: the classification of the current tick -/
  b : BitVec 1
  /-- R25: the classification of the tick before -/
  b1 : BitVec 1
  /-- R26: the oversampled intensity accumulator -/
  t : BitVec 10
  /-- R27: the physical sample the search stands at -/
  k : BitVec 32
  /-- R27: the phase accumulator of the FRC and payload phase -/
  i : BitVec 48
  deriving DecidableEq, Repr, Inhabited

/-! ## Free values (no body: nothing in Lean can evaluate them) -/

/-- FREE VALUE. The undefined bits of the final payload byte of the `n`-th SLICE that ended
(spec/93_implementation_defined.md U1; rules R163, R164). notes/assumptions/4.md. -/
opaque freePad : Nat → Byte

/-- FREE VALUE. The slicer's working registers after the `n`-th SLICE that ended or power-on reset
(spec/93_implementation_defined.md U3; rules R20, R42). notes/assumptions/5.md. -/
opaque freeSlicerRegs : Nat → SlicerRegs

/-- FREE VALUE. The descriptor of a pixel-format code that has none (spec/40_sample_demux.md rule R132: `Sample` is never
evaluated for one, so only a state that no run reaches, or a host procedure, meets it). notes/assumptions/6.md. -/
opaque freeDescriptor : BitVec 8 → PixelDescriptor

/-- FREE VALUE. The quotient `p / 0` in the host procedures' rational formulas (spec/42_config.md rules R212, R213, R217
divide by `G_RATE`, `cri_rate`, `bit_rate` and do not say what a rate of 0 gives). notes/assumptions/7.md. -/
opaque freeQuotient : ℚ → ℚ

end Sys2Proof.Config
end

