-- ==== Sys2Proof/Machine/State.lean ====
section
/-! DEFINITION. The state of one instance of the block as plain data (spec/10_state.md, spec/20_memory.md), the reasons a
step can stop, and the state after power-on reset (spec/10_state.md rule R42). -/

namespace Sys2Proof.Machine

/-! ## Why a step stops -/

/-- Faults of the MODEL. The block's own "faults" are result codes: they are written to `R_RESULT` and the machine goes on. -/
inductive Fault where
  /-- Raised by `step` when the sequencer position is not `IDLE`, that is when a transaction is presented while a command
  runs: the stuck state of spec/93_implementation_defined.md U6. No run reaches it, because a command is one atomic step
  (spec/00_scope.md rule R11). Safe: nothing is claimed of the hardware there. -/
  | commandInProgress
  deriving DecidableEq, Repr

/-- Refusals of the MODEL. -/
inductive Refusal where
  /-- Raised by `exec` for an instruction that has no meaning yet. Safe. No instruction of this model is left so. -/
  | notModelled (mnemonic : String)
  deriving DecidableEq, Repr

/-! ## Memories -/

/-- A byte-addressed memory (RAW or OUT): the listed cells, addresses strictly rising, none equal to `unlistedByte`. -/
structure Memory where
  cells : List Host.Cell
  deriving DecidableEq, Repr

/-- What a byte that no cell lists reads as. The spec calls the contents before the host's first write unspecified
(spec/10_state.md rule R42, U4). DESIGN CHOICE, unsafe: notes/assumptions/3.md. -/
def unlistedByte : Byte := 0

/-! ## Registers -/

/-- The geometry registers `G_*`, DOC's SamplingGeometry (spec/10_state.md rule R30, spec/30_encoding.md rule R94). -/
structure Geometry where
  pixfmt : BitVec 8
  rate : BitVec 32
  bpl : BitVec 32
  offset : BitVec 32
  start0 : BitVec 32
  start1 : BitVec 32
  count0 : BitVec 32
  count1 : BitVec 32
  /-- bit 0 `INTERLACED`, bit 1 `SYNCHRONOUS` (rule R95) -/
  flags : BitVec 2
  scan : BitVec 10
  deriving DecidableEq, Repr

/-- The staging registers `A_*`, the operands of the commands (spec/10_state.md rule R31). -/
structure Staging where
  id : BitVec 32
  group : BitVec 32
  offset : BitVec 32
  criFrc : BitVec 32
  criMask : BitVec 32
  bits : BitVec 32
  criRate : BitVec 32
  bitRate : BitVec 32
  payload : BitVec 32
  rows0 : BitVec 32
  rows1 : BitVec 32
  outCap : BitVec 32
  addr : BitVec 32
  deriving DecidableEq, Repr

/-! ## The Job file -/

/-- One entry of `JOB[0..7]`, every field of spec/10_state.md rule R35 at its width. -/
structure Job where
  id : BitVec 32
  offset : BitVec 32
  pf : BitVec 8
  rate : BitVec 32
  lineSamples : BitVec 32
  cri : BitVec 32
  criMask : BitVec 32
  criBits : BitVec 6
  criRate : BitVec 32
  frc : BitVec 32
  frcBits : BitVec 6
  payloadBits : BitVec 16
  bitRate : BitVec 32
  modulation : BitVec 2
  osRate : BitVec 32
  thresh : BitVec 32
  step : BitVec 40
  phaseShift : BitVec 40
  skip : BitVec 8
  endian : BitVec 2
  criSamples : BitVec 32
  deriving DecidableEq, Repr

/-- An entry with every field 0: what reset, RESET and RMSVC leave at and above `NJOBS` (rules R42, R193, R208; U7). -/
def Job.zero : Job :=
  { id := 0, offset := 0, pf := 0, rate := 0, lineSamples := 0, cri := 0, criMask := 0, criBits := 0, criRate := 0,
    frc := 0, frcBits := 0, payloadBits := 0, bitRate := 0, modulation := 0, osRate := 0, thresh := 0, step := 0,
    phaseShift := 0, skip := 0, endian := 0, criSamples := 0 }

/-- A row of PAT all Blank (rule R42). -/
def blankRow : Row := List.replicate 8 0

/-! ## The sequencer position -/

/-- The phase of a SLICE (spec/10_state.md rule R28). -/
inductive SlicePhase where
  | search | frc | payload
  deriving DecidableEq, Repr

/-- The sequencer position, the analogue of a program counter (rule R28): `IDLE`, or the command being executed with its
loop variables. Commands are atomic (rule R11), so every state between two steps of a run is `idle`. -/
inductive SeqPos where
  | idle
  | reset
  | jobadd
  | rmsvc
  /-- DECODE at row `r`, slot `s` -/
  | decode (r s : Nat)
  /-- SLICE in a phase, with its loop variables `k`, `tick`, the FRC bit counter and the payload bit counter -/
  | slice (phase : SlicePhase) (k tick frcBit payloadBit : Nat)
  deriving DecidableEq, Repr

/-! ## The host's side of the interface -/

/-- What the host does next at the block's interface. The model's own type: the spec's second agent (spec/00_scope.md
rule R11) as a list of inputs the step reads. -/
inductive HostAction where
  /-- the host issues a transaction word (rule R90) -/
  | transaction (t : Transaction)
  /-- the host fills RAW from address 0 before a command; RAW then has exactly these bytes (rules R11, R61) -/
  | fillRaw (bytes : List Byte)
  /-- the host, which owns OUT between commands (rule R77), stores these bytes in OUT from address 0 -/
  | fillOut (bytes : List Byte)
  /-- the reset input is asserted (rule R300) -/
  | powerOnReset
  deriving DecidableEq, Repr

/-! ## Result codes -/

/-- The result codes of `R_RESULT` (spec/30_encoding.md rule R104, spec/60_exceptions.md rule R271). -/
inductive ResultCode where
  | ok | noMatch | rejCapacity | rejNoslot | cfgError | allocError | geomLocked | badCmd | rawOverrun | badJob
  deriving DecidableEq, Repr

/-! ## The machine -/

/-- The state of one instance. -/
structure State where
  /-- the OPEN parameters of the instance; no step changes them (spec/00_scope.md rule R8) -/
  params : Config.Params
  /-- `G_*` -/
  geom : Geometry
  /-- `A_*` -/
  staging : Staging
  /-- `R_RESULT` (rule R29) -/
  result : BitVec 8
  /-- `R_VALUE` (rule R29) -/
  value : BitVec 32
  /-- `SERVICES` (rule R32) -/
  services : BitVec 32
  /-- `NJOBS` (rule R32) -/
  njobs : BitVec 4
  /-- `RETEST` (rule R34) -/
  retest : BitVec 4
  /-- `JOB[0..7]` (rule R35) -/
  jobs : List Job
  /-- `PAT[0 .. MAX_LINES-1][0..7]` (rule R36) -/
  pat : List Row
  /-- the slicer's working registers (rules R20 to R27), between commands a free value (U3) -/
  work : Config.SlicerRegs
  /-- the sequencer position (rule R28) -/
  seq : SeqPos
  /-- the RAW sample memory (rule R61) -/
  raw : Memory
  /-- `RAW_BYTES`: the size of RAW as the host presents it (rules R8, R61) -/
  rawBytes : Nat
  /-- the OUT record memory (rule R62); its size is `params.outRecords` records of 64 bytes -/
  out : Memory
  /-- MODEL's own: the reply of the latest `RD`, as the host received it (rule R91) -/
  reply : Option (BitVec 32)
  /-- MODEL's own: what the host does next, first at the head (rules R11, R90) -/
  host : List HostAction
  /-- MODEL's own: how many free values have been drawn -/
  freeDraws : Nat
  deriving DecidableEq, Repr

/-- The power-on reset values of spec/10_state.md rule R42 for an instance with parameters `p`. `work`, RAW and OUT are
unspecified there: the values here are DESIGN CHOICES (notes/assumptions/3.md, 5.md). -/
def State.resetOf (p : Config.Params) : State :=
  { params := p
    geom := { pixfmt := 0, rate := 0, bpl := 0, offset := 0, start0 := 0, start1 := 0, count0 := 0, count1 := 0,
              flags := 0, scan := 0 }
    staging := { id := 0, group := 0, offset := 0, criFrc := 0, criMask := 0, bits := 0, criRate := 0, bitRate := 0,
                 payload := 0, rows0 := 0, rows1 := 0, outCap := 0, addr := 0 }
    result := 0
    value := 0
    services := 0
    njobs := 0
    retest := 1
    jobs := List.replicate 8 Job.zero
    pat := List.replicate p.maxLines blankRow
    work := { tr := 0, thresh0 := 0, cl := 0, c := 0, b := 0, b1 := 0, t := 0, k := 0, i := 0 }
    seq := .idle
    raw := ⟨[]⟩
    rawBytes := 0
    out := ⟨[]⟩
    reply := none
    host := []
    freeDraws := 0 }

/-- The machine right after power-on reset, with the parameter sizes of the spec's test vectors
(notes/assumptions/2.md). -/
def State.reset : State := State.resetOf Config.defaultParams

end Sys2Proof.Machine
end

