-- ==== Sys2Proof/Machine/Flags.lean ====
section
/-! DEFINITION. The result state, the block's analogue of flags (spec/10_state.md rule R29): the numbers of the result codes,
the match outcome of SLICE and the validation `CHECK`. How an ending writes `R_RESULT` and `R_VALUE` is in Machine/Ops.lean. -/

namespace Sys2Proof.Machine

/-- The numbers of the result codes (spec/30_encoding.md rule R104). -/
def ResultCode.number : ResultCode → BitVec 8
  | .ok => 0
  | .noMatch => 1
  | .rejCapacity => 2
  | .rejNoslot => 3
  | .cfgError => 4
  | .allocError => 5
  | .geomLocked => 6
  | .badCmd => 7
  | .rawOverrun => 8
  | .badJob => 9

/-- The match outcome of one SLICE (rule R29 (a)), with the one mid-command fault (rule R277). -/
inductive SliceOutcome where
  /-- `Match(bytes)` -/
  | matched (bytes : List Byte)
  /-- `NoMatch`: it carries no cause (spec/41_slicer.md rule R171) -/
  | noMatch
  /-- the fault `RAW_OVERRUN` -/
  | overrun
  deriving DecidableEq, Repr

/-- `CHECK(id, bytes)` of spec/43_scheduler.md rule R238, the parameter written as the list of rejected pairs. -/
def checkPasses (p : Config.Params) (id : Word) (bytes : List Byte) : Bool := !(p.rejected.contains (id, bytes))

end Sys2Proof.Machine
end

