-- ==== Sys2Proof/Machine/Ops.lean ====
section
/-! DEFINITION. The named operations over memory, the Job file, the candidate-slot memory and the result registers. -/

namespace Sys2Proof.Machine

/-! ## Ending a transaction -/

/-- TAKING AN EXCEPTION: `raise <Code>` for every code but `OK`, `NO_MATCH` and `RAW_OVERRUN` writes `R_RESULT` and nothing
else (spec/60_exceptions.md rule R276). There is no return from one (rule R282): the host's next transaction goes on. -/
def raise (c : ResultCode) (s : State) : State := { s with result := c.number }

/-- A command that ends with a value: `R_RESULT <- c; R_VALUE <- v`. Used for `OK`, for `NO_MATCH` (value 0, rule R276)
and for `RAW_OVERRUN` (value the records written so far, rule R277). -/
def finish (c : ResultCode) (v : BitVec 32) (s : State) : State := { s with result := c.number, value := v }

/-- The end of a transaction at the interface: the host's next action comes to the head (spec/20_memory.md rule R73: a
transaction completes before the next begins). Every meaning ends with it, as every instruction of a processor moves the
program counter on. -/
def complete (s : State) : State := { s with host := s.host.tail }

/-! ## Memory (spec/20_memory.md rules R60 to R68) -/

/-- The byte the cells hold at address `a`. -/
def cellsRead (a : Nat) : List Host.Cell → Byte
  | [] => unlistedByte
  | (x, v) :: rest => if a = x then v else if a < x then unlistedByte else cellsRead a rest

/-- The cells after `b` is stored at address `a`, in the canonical form. -/
def cellsWrite (a : Nat) (b : Byte) : List Host.Cell → List Host.Cell
  | [] => if b = unlistedByte then [] else [(a, b)]
  | (x, v) :: rest =>
    if a < x then (if b = unlistedByte then (x, v) :: rest else (a, b) :: (x, v) :: rest)
    else if a = x then (if b = unlistedByte then rest else (a, b) :: rest)
    else (x, v) :: cellsWrite a b rest

/-- The cells of the bytes `bs` laid from address `a` upward. -/
def cellsOfBytes (a : Nat) : List Byte → List Host.Cell
  | [] => []
  | b :: bs => if b = unlistedByte then cellsOfBytes (a + 1) bs else (a, b) :: cellsOfBytes (a + 1) bs

/-- Every address of the list is at least `lo`, addresses rise strictly, and no byte equals `unlistedByte`. -/
def cellsWfFrom (lo : Nat) : List Host.Cell → Bool
  | [] => true
  | (x, v) :: rest => decide (lo ≤ x) && v != unlistedByte && cellsWfFrom (x + 1) rest

/-- The canonical form of a memory. -/
def Memory.wf (m : Memory) : Bool := cellsWfFrom 0 m.cells

/-- The byte at address `a`. -/
def Memory.read (m : Memory) (a : Nat) : Byte := cellsRead a m.cells

/-- One byte stored at address `a`. -/
def Memory.write (m : Memory) (a : Nat) (b : Byte) : Memory := ⟨cellsWrite a b m.cells⟩

/-- The bytes `bs` stored from address `a` upward, lowest address first (`MemWrite`, spec/00_scope.md rule R13). -/
def Memory.writeBytes (m : Memory) (a : Nat) : List Byte → Memory
  | [] => m
  | b :: bs => Memory.writeBytes (m.write a b) (a + 1) bs

/-- A memory that holds exactly the bytes `bs` from address 0. -/
def Memory.ofBytes (bs : List Byte) : Memory := ⟨cellsOfBytes 0 bs⟩

/-- `MemRead(RAW, a, n)` (rules R13, R66): `n` bytes, lowest address first; `none` is the fault `RAW_OVERRUN`, when
`a + n > RAW_BYTES`. -/
def memReadRaw (raw : Memory) (rawBytes a n : Nat) : Option (List Byte) :=
  if a + n ≤ rawBytes then some ((List.range n).map fun o => raw.read (a + o)) else none

/-- `LE32(x)`: the four bytes of `x`, least significant first (spec/43_scheduler.md rule R235). -/
def le32 (x : BitVec 32) : List Byte :=
  [x.extractLsb' 0 8, x.extractLsb' 8 8, x.extractLsb' 16 8, x.extractLsb' 24 8]

/-- The base address in OUT of record `n` (rule R62). -/
def recordBase (n : Nat) : Nat := Config.recordBytes * n

/-- Bytes stored in OUT. -/
def storeOut (a : Nat) (bs : List Byte) (s : State) : State := { s with out := s.out.writeBytes a bs }

/-! ## The Job file (spec/10_state.md rule R35) -/

/-- `JOB[j]`. -/
def State.job (s : State) (j : Nat) : Job := s.jobs.getD j Job.zero

/-- `JOB[j] <- x`. -/
def setJob (j : Nat) (x : Job) (s : State) : State := { s with jobs := s.jobs.set j x }

/-- `JOB[j].thresh <- v`: the one field SLICE writes (rule R35). -/
def setThresh (j : Nat) (v : BitVec 32) (s : State) : State := setJob j { s.job j with thresh := v } s

/-! ## The candidate-slot memory (rules R36, R37) -/

/-- The signed value of a slot (spec/30_encoding.md rule R100). -/
def slotValue (v : Slot) : Int := v.toInt

/-- A Job reference: `v > 0` (rule R37). -/
def isJobSlot (v : Slot) : Bool := decide (0 < slotValue v)

/-- The reference to `JOB[j]`: its index plus 1 (rule R100). -/
def jobRef (j : Nat) : Slot := BitVec.ofNat 8 (j + 1)

/-- The countdown's start, `Miss(-128)` (rules R205, R236). -/
def dwellStart : Slot := BitVec.ofInt 8 (-(Config.dwell : Int))

/-- Slot `i` of a row. -/
def slotAt (row : Row) (i : Nat) : Slot := row.getD i 0

/-- Row `r` of PAT. -/
def State.row (s : State) (r : Nat) : Row := s.pat.getD r blankRow

/-- `PAT[r] <- row`. -/
def setRow (r : Nat) (row : Row) (s : State) : State := { s with pat := s.pat.set r row }

/-- The swap with the front of rules R237 and R244: `PAT[r][i] <- PAT[r][0]; PAT[r][0] <- v`. -/
def promote (row : Row) (i : Nat) (v : Slot) : Row := (row.set i (slotAt row 0)).set 0 v

/-- The rotation of rule R242: every slot one place toward the front, the old front to the back. -/
def rotateRow (row : Row) : Row := row.tail ++ [slotAt row 0]

/-- `Compact(r, i)` of spec/42_config.md rule R209 with `ref = i + 1`: the references dropped, those above renumbered, the
row padded with Blanks to 8 slots. -/
def compactRow (ref : Slot) (row : Row) : Row :=
  let kept := row.filter (fun v => v != ref)
  let renumbered := kept.map fun v => if slotValue ref < slotValue v then v - 1 else v
  (renumbered ++ List.replicate 8 0).take 8

/-! ## Frame geometry (rules R70, R71; spec/43_scheduler.md rule R240) -/

/-- `G_FLAGS.INTERLACED` (spec/30_encoding.md rule R95). -/
def interlaced (g : Geometry) : Bool := g.flags.getLsbD 0

/-- `G_FLAGS.SYNCHRONOUS` (rule R95). -/
def synchronous (g : Geometry) : Bool := g.flags.getLsbD 1

/-- `ROWS = G_COUNT0 + G_COUNT1`, a natural number. -/
def rowCount (g : Geometry) : Nat := g.count0.toNat + g.count1.toNat

/-- `RowBase(r)` (rule R71), a natural number: no wrap. -/
def rowBase (g : Geometry) (r : Nat) : Nat :=
  let pitch := if interlaced g then 2 * g.bpl.toNat else g.bpl.toNat
  if r < g.count0.toNat then r * pitch
  else if interlaced g then g.bpl.toNat + (r - g.count0.toNat) * pitch
  else r * g.bpl.toNat

/-- `LineNumber(r)` (rule R240), as a 32-bit value. -/
def lineNumber (g : Geometry) (r : Nat) : BitVec 32 :=
  if r < g.count0.toNat then
    if g.start0 = 0 then 0 else g.start0 + BitVec.ofNat 32 r
  else
    if g.start1 = 0 then 0 else g.start1 + BitVec.ofNat 32 (r - g.count0.toNat)

end Sys2Proof.Machine
end

