-- ==== Sys2Proof/Machine/Operands.lean ====
section
/-! DEFINITION. Operand forms: register numbers (spec/30_encoding.md rule R94), the fields of the packed operands (rules R96,
R97), the assembly of the sync patterns (rule R105), and samples of RAW (spec/40_sample_demux.md). -/

namespace Sys2Proof.Machine

/-! ## Register numbers -/

/-- The geometry registers. -/
inductive GeomReg where
  | pixfmt | rate | bpl | offset | start0 | start1 | count0 | count1 | flags | scan
  deriving DecidableEq, Repr

/-- The staging registers. -/
inductive StageReg where
  | id | group | offset | criFrc | criMask | bits | criRate | bitRate | payload | rows0 | rows1 | outCap | addr
  deriving DecidableEq, Repr

/-- The read-only status registers. -/
inductive StatusReg where
  | result | value | services | njobs | retest
  deriving DecidableEq, Repr

/-- What a register number names (rules R94, R106). -/
inductive RegName where
  | geom (g : GeomReg)
  | stage (a : StageReg)
  | status (r : StatusReg)
  | cmd
  | reserved
  deriving DecidableEq, Repr

/-- The register a 7-bit number names (rule R94); every number the table does not list is reserved (rule R106). -/
def regName (n : BitVec 7) : RegName :=
  match n.toNat with
  | 0x00 => .geom .pixfmt
  | 0x01 => .geom .rate
  | 0x02 => .geom .bpl
  | 0x03 => .geom .offset
  | 0x04 => .geom .start0
  | 0x05 => .geom .start1
  | 0x06 => .geom .count0
  | 0x07 => .geom .count1
  | 0x08 => .geom .flags
  | 0x09 => .geom .scan
  | 0x10 => .stage .id
  | 0x11 => .stage .group
  | 0x12 => .stage .offset
  | 0x13 => .stage .criFrc
  | 0x14 => .stage .criMask
  | 0x15 => .stage .bits
  | 0x16 => .stage .criRate
  | 0x17 => .stage .bitRate
  | 0x18 => .stage .payload
  | 0x19 => .stage .rows0
  | 0x1A => .stage .rows1
  | 0x1B => .stage .outCap
  | 0x1C => .stage .addr
  | 0x20 => .status .result
  | 0x21 => .status .value
  | 0x22 => .status .services
  | 0x23 => .status .njobs
  | 0x24 => .status .retest
  | 0x7F => .cmd
  | _ => .reserved

/-- A geometry register, zero-extended to 32 bits. -/
def readGeom (g : Geometry) : GeomReg → BitVec 32
  | .pixfmt => g.pixfmt.setWidth 32
  | .rate => g.rate
  | .bpl => g.bpl
  | .offset => g.offset
  | .start0 => g.start0
  | .start1 => g.start1
  | .count0 => g.count0
  | .count1 => g.count1
  | .flags => g.flags.setWidth 32
  | .scan => g.scan.setWidth 32

/-- A geometry register written: the bits the register has are stored, the others dropped (`WidthMask`, rule R190). -/
def writeGeom (g : Geometry) (v : BitVec 32) : GeomReg → Geometry
  | .pixfmt => { g with pixfmt := v.setWidth 8 }
  | .rate => { g with rate := v }
  | .bpl => { g with bpl := v }
  | .offset => { g with offset := v }
  | .start0 => { g with start0 := v }
  | .start1 => { g with start1 := v }
  | .count0 => { g with count0 := v }
  | .count1 => { g with count1 := v }
  | .flags => { g with flags := v.setWidth 2 }
  | .scan => { g with scan := v.setWidth 10 }

/-- A staging register. -/
def readStage (a : Staging) : StageReg → BitVec 32
  | .id => a.id
  | .group => a.group
  | .offset => a.offset
  | .criFrc => a.criFrc
  | .criMask => a.criMask
  | .bits => a.bits
  | .criRate => a.criRate
  | .bitRate => a.bitRate
  | .payload => a.payload
  | .rows0 => a.rows0
  | .rows1 => a.rows1
  | .outCap => a.outCap
  | .addr => a.addr

/-- A staging register written: all 32 bits are stored (rules R31, R96). -/
def writeStage (a : Staging) (v : BitVec 32) : StageReg → Staging
  | .id => { a with id := v }
  | .group => { a with group := v }
  | .offset => { a with offset := v }
  | .criFrc => { a with criFrc := v }
  | .criMask => { a with criMask := v }
  | .bits => { a with bits := v }
  | .criRate => { a with criRate := v }
  | .bitRate => { a with bitRate := v }
  | .payload => { a with payload := v }
  | .rows0 => { a with rows0 := v }
  | .rows1 => { a with rows1 := v }
  | .outCap => { a with outCap := v }
  | .addr => { a with addr := v }

/-- A status register, zero-extended to 32 bits. -/
def readStatus (s : State) : StatusReg → BitVec 32
  | .result => s.result.setWidth 32
  | .value => s.value
  | .services => s.services
  | .njobs => s.njobs.setWidth 32
  | .retest => s.retest.setWidth 32

/-- The value a register read returns; `CMD` and reserved numbers read 0 (rules R33, R91, R106). -/
def readReg (s : State) (n : BitVec 7) : BitVec 32 :=
  match regName n with
  | .geom g => readGeom s.geom g
  | .stage a => readStage s.staging a
  | .status r => readStatus s r
  | .cmd => 0
  | .reserved => 0

/-! ## Packed operands -/

/-- `cri_bits`, `A_BITS[5:0]` (rule R96). -/
def stagedCriBits (a : Staging) : BitVec 6 := a.bits.extractLsb' 0 6
/-- `frc_bits`, `A_BITS[13:8]` (rule R96). -/
def stagedFrcBits (a : Staging) : BitVec 6 := a.bits.extractLsb' 8 6
/-- `modulation`, `A_BITS[17:16]` (rule R96). -/
def stagedModulation (a : Staging) : BitVec 2 := a.bits.extractLsb' 16 2
/-- Bit 0 of a modulation code is "MSB-first" (rule R102). -/
def msbFirst (m : BitVec 2) : Bool := m.getLsbD 0
/-- Bit 1 of a modulation code is "biphase" (rule R102). -/
def biphase (m : BitVec 2) : Bool := m.getLsbD 1
/-- `first` of a row range, bits 15:0 (rule R97). -/
def rangeFirst (rows : BitVec 32) : Nat := (rows.extractLsb' 0 16).toNat
/-- `count` of a row range, bits 31:16 (rule R97). -/
def rangeCount (rows : BitVec 32) : Nat := (rows.extractLsb' 16 16).toNat
/-- The rows a range names, in ascending order; none when `count = 0`. -/
def rangeRows (rows : BitVec 32) : List Nat := List.range' (rangeFirst rows) (rangeCount rows)
/-- The rows of the two ranges of a JOBADD, in the order of spec/42_config.md rule R203. -/
def stagedRows (a : Staging) : List Nat := rangeRows a.rows0 ++ rangeRows a.rows1

/-! ## The sync patterns (rule R105) -/

/-- `2^n - 1` as a 32-bit mask; all ones for `n = 32`. -/
def lowMask (n : Nat) : BitVec 32 := BitVec.ofNat 32 (2 ^ n - 1)
/-- `cri_mask = A_CRIMASK & c_mask`. -/
def assembledCriMask (a : Staging) : BitVec 32 := a.criMask &&& lowMask (stagedCriBits a).toNat
/-- `cri = (A_CRIFRC >> frc_bits) & cri_mask`; a shift by 32 yields 0. -/
def assembledCri (a : Staging) : BitVec 32 := (a.criFrc >>> (stagedFrcBits a).toNat) &&& assembledCriMask a
/-- `frc = A_CRIFRC & f_mask`. -/
def assembledFrc (a : Staging) : BitVec 32 := a.criFrc &&& lowMask (stagedFrcBits a).toNat

/-! ## Pixel formats (spec/40_sample_demux.md rules R121 to R132) -/

/-- The descriptor of a format whose unit is one byte. -/
def byteSample (stride skip shift width : Nat) : Config.PixelDescriptor :=
  { stride := stride, skip := skip, wide := false, be := false, shift := shift, width := width }

/-- The descriptor of a format whose unit is two bytes. -/
def pairSample (be : Bool) (shift width : Nat) : Config.PixelDescriptor :=
  { stride := 2, skip := 0, wide := true, be := be, shift := shift, width := width }

/-- The pixel-format codes (spec/30_encoding.md rule R101) with their descriptors (rules R125 to R131). -/
def pixelTable : List (BitVec 8 × Config.PixelDescriptor) :=
  [ (0x01, byteSample 1 0 0 8),  -- YUV420
    (0x02, byteSample 2 0 0 8),  -- YUYV
    (0x03, byteSample 2 0 0 8),  -- YVYU
    (0x04, byteSample 2 1 0 8),  -- UYVY
    (0x05, byteSample 2 1 0 8),  -- VYUY
    (0x10, byteSample 3 1 0 8),  -- RGB24
    (0x11, byteSample 3 1 0 8),  -- BGR24
    (0x20, pairSample false 5 6),  -- RGB16_LE
    (0x21, pairSample true 5 6),  -- RGB16_BE
    (0x22, pairSample false 5 6),  -- BGR16_LE
    (0x23, pairSample true 5 6),  -- BGR16_BE
    (0x24, pairSample false 5 5),  -- RGBA15_LE
    (0x25, pairSample true 5 5),  -- RGBA15_BE
    (0x26, pairSample false 5 5),  -- BGRA15_LE
    (0x27, pairSample true 5 5),  -- BGRA15_BE
    (0x28, pairSample false 6 5),  -- ARGB15_LE
    (0x29, pairSample true 6 5),  -- ARGB15_BE
    (0x2A, pairSample false 6 5),  -- ABGR15_LE
    (0x2B, pairSample true 6 5),  -- ABGR15_BE
    (0x30, pairSample false 4 4),  -- RGBA12_LE
    (0x31, pairSample true 4 4),  -- RGBA12_BE
    (0x32, pairSample false 4 4),  -- BGRA12_LE
    (0x33, pairSample true 4 4),  -- BGRA12_BE
    (0x34, pairSample false 8 4),  -- ARGB12_LE
    (0x35, pairSample true 8 4),  -- ARGB12_BE
    (0x36, pairSample false 8 4),  -- ABGR12_LE
    (0x37, pairSample true 8 4),  -- ABGR12_BE
    (0x40, byteSample 1 0 3 3),  -- RGB8
    (0x41, byteSample 1 0 2 3) ]  -- BGR8

/-- The descriptor of a pixel-format code; `none` for an unknown format (rule R132). -/
def descriptorOf (code : BitVec 8) : Option Config.PixelDescriptor := pixelTable.lookup code

/-- The descriptor of a code, a free value for an unknown format (notes/assumptions/6.md). -/
def descriptorOrFree (code : BitVec 8) : Config.PixelDescriptor := (descriptorOf code).getD (Config.freeDescriptor code)

/-! ## Samples (rules R122 to R124, R133) -/

/-- What `Sample` reads besides the index: RAW, the descriptor of `JOB[j].pf`, and the byte address of the channel unit of
sample 0, `base + skip` (rules R72, R124). -/
structure SampleSource where
  raw : Memory
  rawBytes : Nat
  desc : Config.PixelDescriptor
  start : Nat

/-- `Unit(d, a)` (rule R122); `none` is `RAW_OVERRUN`. -/
def readUnit (src : SampleSource) (a : Nat) : Option Nat :=
  if src.desc.wide then
    match memReadRaw src.raw src.rawBytes a 2 with
    | some [b0, b1] =>
      if src.desc.be then some (b0.toNat * 256 + b1.toNat) else some (b1.toNat * 256 + b0.toNat)
    | _ => none
  else
    match memReadRaw src.raw src.rawBytes a 1 with
    | some [b0] => some b0.toNat
    | _ => none

/-- `Channel(d, u)` (rule R123): the channel's bits, left-aligned in 8. -/
def channel (d : Config.PixelDescriptor) (u : Nat) : Nat := (u >>> d.shift % 2 ^ d.width) <<< (8 - d.width)

/-- `Sample(base, k)` (rule R124); `none` is `RAW_OVERRUN`. -/
def sample (src : SampleSource) (k : Nat) : Option Nat :=
  (readUnit src (src.start + k * src.desc.stride)).map (channel src.desc)

/-- `t(n) = 4 × r0 + n × (r1 - r0)` for tick `n` of 0..3 (rule R133 (a)), written as a sum of naturals. -/
def tickSum (r0 r1 n : Nat) : Nat := (Config.oversampling - n) * r0 + n * r1

/-- `Tick(n)` (rule R133 (a)): the interpolated intensity, rounded half up. -/
def tickLevel (r0 r1 n : Nat) : Nat := (tickSum r0 r1 n + 2) / 4

/-- `Level256(k, i)` (rule R133 (b)): `256 × s0 + (s1 - s0) × f`, written as a sum of naturals (`f ≤ 255`); both neighbours
are read even when `f = 0`. -/
def level256 (src : SampleSource) (k i : Nat) : Option Nat :=
  let p := k + i >>> Config.phaseFrac
  let f := i % 256
  match sample src p, sample src (p + 1) with
  | some s0, some s1 => some ((256 - f) * s0 + f * s1)
  | _, _ => none

end Sys2Proof.Machine
end

