-- ==== Sys2Proof/Machine/Slicer.lean ====
section
/-! DEFINITION. The SLICE operation and command (spec/41_slicer.md): synchronisation search, framing-code confirmation,
payload extraction. All arithmetic is exact (rule R167) but for the two reductions `mod 2^32` it names. -/

namespace Sys2Proof.Machine

/-! ## Synchronisation search (rules R153 to R157) -/

/-- The threshold detector's update (rule R154): `(thresh + (r0 - tr) × |r1 - r0|) mod 2^32`. -/
def trackThreshold (thresh tr r0 r1 : Nat) : Nat :=
  (((thresh : Int) + ((r0 : Int) - tr) * (((r1 : Int) - r0).natAbs : Int)) % 2 ^ 32).toNat

/-- The clock-recovery and matcher registers: `cl`, `c`, `b1` (rules R23 to R25). -/
structure Pll where
  cl : Nat
  c : Nat
  b1 : Bool
  deriving DecidableEq, Repr

/-- The start values of rule R152. -/
def Pll.start : Pll := { cl := 0, c := 0, b1 := false }

/-- One tick with classification `b` (rules R156, R157): the registers after it, and whether the sync pattern matched on a
bit emitted at this tick. -/
def pllTick (job : Job) (b : Bool) (p : Pll) : Pll × Bool :=
  if b != p.b1 then ({ p with cl := job.osRate.toNat / 2, b1 := b }, false)
  else
    let cl := p.cl + job.criRate.toNat
    if job.osRate.toNat ≤ cl then
      let c := (2 * p.c + b.toNat) % 2 ^ 32
      ({ cl := cl - job.osRate.toNat, c := c, b1 := b }, c &&& job.criMask.toNat == job.cri.toNat)
    else ({ p with cl := cl, b1 := b }, false)

/-- The ticks `n, n+1, ..` of one physical sample, `left` of them; after a match the rest are not examined (rule R157).
The classification is rule R155's: a level equal to the threshold is 1. -/
def pllTicks (job : Job) (tr r0 r1 : Nat) : (left n : Nat) → Pll → Pll × Bool
  | 0, _, p => (p, false)
  | left + 1, n, p =>
    match pllTick job (decide (tr ≤ tickLevel r0 r1 n)) p with
    | (p', true) => (p', true)
    | (p', false) => pllTicks job tr r0 r1 left (n + 1) p'

/-- How the search ends. -/
inductive SearchEnd where
  /-- the CRI matched at sample `k`, with that sample's threshold `tr` and the tracked threshold after it -/
  | found (k tr thresh : Nat)
  /-- all `cri_samples` samples examined without a match -/
  | exhausted
  /-- a sample read left RAW -/
  | overrun
  deriving DecidableEq, Repr

/-- The search over the samples `k, k+1, ..`, `left` of them (rules R153 to R157). -/
def search (src : SampleSource) (job : Job) : (left k thresh : Nat) → Pll → SearchEnd
  | 0, _, _, _ => .exhausted
  | left + 1, k, thresh, p =>
    match sample src k, sample src (k + 1) with
    | some r0, some r1 =>
      let tr := thresh >>> Config.threshFrac
      let thresh' := trackThreshold thresh tr r0 r1
      match pllTicks job tr r0 r1 Config.oversampling 0 p with
      | (_, true) => .found k tr thresh'
      | (p', false) => search src job left (k + 1) thresh' p'
    | _, _ => .overrun

/-! ## Framing code and payload (rules R158, R160) -/

/-- `Bit(k, i, tr)` (rule R158). -/
def bitAt (src : SampleSource) (k tr i : Nat) : Option Bool :=
  (level256 src k i).map fun l => decide (256 * tr ≤ l)

/-- `n` bits from position `i` on, one every `step`, first received first. -/
def readBits (src : SampleSource) (k tr step : Nat) : (n i : Nat) → Option (List Bool)
  | 0, _ => some []
  | n + 1, i =>
    match bitAt src k tr i with
    | some b => (readBits src k tr step n (i + step)).map (b :: ·)
    | none => none

/-- The value of a bit string, the first bit the most significant. -/
def bitsValue (bits : List Bool) : Nat := bits.foldl (fun c b => 2 * c + b.toNat) 0

/-! ## Packing (rules R161 to R164) -/

/-- One byte from at most 8 bits, the first received bit in bit 7 (`msb`) or in bit 0; a bit that was not received is taken
from `pad`: the undefined bits of the final byte. -/
def packByte (msb : Bool) (pad : Byte) (bits : List Bool) : Byte :=
  BitVec.ofFnLE fun (m : Fin 8) => bits.getD (if msb then 7 - m.val else m.val) (pad.getLsbD m.val)

/-- The payload bytes: byte `q` is built from bits `8q .. min(8q+7, P-1)`. Odd modes are LSB-first, even modes MSB-first
(spec/30_encoding.md rule R103); only a final byte that is not full shows `pad`. -/
def pack (endian : BitVec 2) (pad : Byte) (bits : List Bool) : List Byte :=
  (List.range ((bits.length + 7) / 8)).map fun q => packByte (!endian.getLsbD 0) pad ((bits.drop (8 * q)).take 8)

/-! ## The operation (rule R166) -/

/-- What a SLICE of a Job's configuration computes: the payload bits and the threshold it leaves, or a failure, which leaves
the threshold it found (rule R159). -/
inductive SliceResult where
  | matched (bits : List Bool) (thresh : Nat)
  | noMatch
  | overrun
  deriving DecidableEq, Repr

/-- The samples a SLICE of `job` at byte address `base` sees (rules R72, R124). -/
def sampleSource (s : State) (job : Job) (base : Nat) : SampleSource :=
  { raw := s.raw, rawBytes := s.rawBytes, desc := descriptorOrFree job.pf, start := base + job.skip.toNat }

/-- After the CRI matched at sample `k`: the framing code, then the payload (rules R158, R160). -/
def confirm (src : SampleSource) (job : Job) (k tr thresh : Nat) : SliceResult :=
  match readBits src k tr job.step.toNat job.frcBits.toNat job.phaseShift.toNat with
  | none => .overrun
  | some frc =>
    if bitsValue frc ≠ job.frc.toNat then .noMatch
    else
      match readBits src k tr job.step.toNat job.payloadBits.toNat
          (job.phaseShift.toNat + job.frcBits.toNat * job.step.toNat) with
      | none => .overrun
      | some bits => .matched bits thresh

/-- SLICE as a function of RAW and one Job. -/
def sliceJob (src : SampleSource) (job : Job) : SliceResult :=
  match search src job job.criSamples.toNat 0 job.thresh.toNat Pll.start with
  | .exhausted => .noMatch
  | .overrun => .overrun
  | .found k tr thresh => confirm src job k tr thresh

/-- The end of a SLICE: the working registers hold no defined value (spec/93_implementation_defined.md U3), and one free
value has been drawn. -/
def retireSlicer (s : State) : State :=
  { s with work := Config.freeSlicerRegs s.freeDraws, freeDraws := s.freeDraws + 1 }

/-- `SLICE(j, base)` on the state (rule R166): its match outcome, and the state after it, in which a match has written
`JOB[j].thresh` (rule R165) and a failure or a fault has written nothing of the architectural state (rules R159, R172 (g)). -/
def runSlice (j base : Nat) (s : State) : SliceOutcome × State :=
  match sliceJob (sampleSource s (s.job j) base) (s.job j) with
  | .matched bits thresh =>
    (.matched (pack (s.job j).endian (Config.freePad s.freeDraws) bits),
      retireSlicer (setThresh j (BitVec.ofNat 32 thresh) s))
  | .noMatch => (.noMatch, retireSlicer s)
  | .overrun => (.overrun, retireSlicer s)

/-! ## The SLICE command (rule R170) -/

/-- `SLICE a, b`: the tests in the order of spec/60_exceptions.md rule R281, then one SLICE at `A_ADDR`. -/
def cmdSlice (a : BitVec 3) (b : BitVec 16) (s : State) : State :=
  if s.njobs.toNat ≤ a.toNat then raise .badJob s
  else if s.params.outRecords ≤ b.toNat then raise .badCmd s
  else
    match runSlice a.toNat s.staging.addr.toNat s with
    | (.matched bytes, s') =>
      finish .ok (BitVec.ofNat 32 bytes.length) (storeOut (recordBase b.toNat + 8) bytes s')
    | (.noMatch, s') => finish .noMatch 0 s'
    | (.overrun, s') => finish .rawOverrun 0 s'

/-- The meaning of `SLICE a, b` (spec/41_slicer.md rules R170, R176). -/
def execSlice (a : BitVec 3) (b : BitVec 16) (s : State) : Host.Outcome State Fault Refusal :=
  .next (complete (cmdSlice a b s))

end Sys2Proof.Machine
end

