-- ==== Sys2Proof/Machine/Scheduler.lean ====
section
/-! DEFINITION. The DECODE command: the row walk and the per-slot state machine (spec/43_scheduler.md). -/

namespace Sys2Proof.Machine

/-- The record of a hit on row `r` (rule R235): `id` and `line` little-endian, then the payload bytes. -/
def recordBytes (g : Geometry) (job : Job) (r : Nat) (bytes : List Byte) : List Byte :=
  le32 job.id ++ le32 (lineNumber g r) ++ bytes

/-- The row after a hit at slot `i` by the Job slot `v`: the dwell mark, then the swap with the front (rules R236, R237). -/
def hitRow (row : Row) (i : Nat) (v : Slot) : Row := promote (row.set 7 dwellStart) i v

/-- A hit (rules R235 to R237): record `n` written, the row promoted. -/
def recordHit (r i n : Nat) (v : Slot) (job : Job) (bytes : List Byte) (s : State) : State :=
  setRow r (hitRow (s.row r) i v) (storeOut (recordBase n) (recordBytes s.geom job r bytes) s)

/-- The row after a non-Job slot `i` ends its walk (rules R241 to R244): a front Blank rotates when `RETEST = 0`; behind
the front the countdown of slot 7 steps, or, once it has run out, a Blank is promoted. -/
def restRow (retest : BitVec 4) (row : Row) (i : Nat) : Row :=
  if i = 0 then (if retest = 0 then rotateRow row else row)
  else if slotValue (slotAt row 7) < 0 then row.set 7 (slotAt row 7 + 1)
  else promote row i 0

/-- How the walk of one row ends. -/
inductive RowEnd where
  /-- the row ends, with or without a record, and the walk goes on -/
  | ended
  /-- a Job was about to be tested with a full output: the whole walk stops (rule R246) -/
  | full
  /-- `RAW_OVERRUN` in the SLICE of a Job of the row (spec/60_exceptions.md rule R277) -/
  | overrun
  deriving DecidableEq, Repr

/-- The walk of the slots `i, i+1, ..` of row `r`, `left` of them (rules R233 to R245, R253): how it ends, the number of
records written so far, and the state. -/
def walkSlots (cap r : Nat) : (left i n : Nat) → State → RowEnd × Nat × State
  | 0, _, n, s => (.ended, n, s)
  | left + 1, i, n, s =>
    let v := slotAt (s.row r) i
    if isJobSlot v then
      if s.njobs.toNat < v.toNat then walkSlots cap r left (i + 1) n s
      else if n = cap then (.full, n, s)
      else
        let j := v.toNat - 1
        match runSlice j (rowBase s.geom r + (s.job j).offset.toNat) s with
        | (.overrun, t) => (.overrun, n, t)
        | (.noMatch, t) => walkSlots cap r left (i + 1) n t
        | (.matched bytes, t) =>
          if checkPasses s.params (s.job j).id bytes then (.ended, n + 1, recordHit r i n v (s.job j) bytes t)
          else walkSlots cap r left (i + 1) n t
    else (.ended, n, setRow r (restRow s.retest (s.row r) i) s)

/-- The walk of the rows `r, r+1, ..`, `left` of them (rule R232). -/
def walkRows (cap : Nat) : (left r n : Nat) → State → RowEnd × Nat × State
  | 0, _, n, s => (.ended, n, s)
  | left + 1, r, n, s =>
    match walkSlots cap r Config.maxWays 0 n s with
    | (.ended, n', t) => walkRows cap left (r + 1) n' t
    | stopped => stopped

/-- `cap = min(A_OUTCAP, OUT_RECORDS)` (rule R231). -/
def outputCap (s : State) : Nat := min s.staging.outCap.toNat s.params.outRecords

/-- The end of a completed walk (rule R247). -/
def finishDecode (n : Nat) (s : State) : State := finish .ok (BitVec.ofNat 32 n) { s with retest := s.retest + 1 }

/-- `DECODE` (rule R249). -/
def cmdDecode (s : State) : State :=
  if s.params.maxLines < rowCount s.geom then raise .allocError s
  else
    match walkRows (outputCap s) (rowCount s.geom) 0 0 s with
    | (.overrun, n, t) => finish .rawOverrun (BitVec.ofNat 32 n) t
    | (.ended, n, t) => finishDecode n t
    | (.full, n, t) => finishDecode n t

/-- The meaning of `DECODE` (rules R249, R254). -/
def execDecode (s : State) : Host.Outcome State Fault Refusal := .next (complete (cmdDecode s))

end Sys2Proof.Machine
end

