-- ==== Sys2Proof/Machine/Services.lean ====
section
/-! DEFINITION. The configuration commands RESET, JOBADD and RMSVC (spec/42_config.md). -/

namespace Sys2Proof.Machine

/-! ## RESET (rule R193) -/

/-- `RESET` clears Jobs and candidate slots, and keeps `G_*`, `A_*` and `RETEST`. -/
def cmdReset (s : State) : State :=
  finish .ok 0 { s with
    njobs := 0
    services := 0
    jobs := List.replicate Config.maxJobs Job.zero
    pat := List.replicate s.params.maxLines blankRow }

/-- The meaning of `RESET` (rules R193, R222). -/
def execReset (s : State) : Host.Outcome State Fault Refusal := .next (complete (cmdReset s))

/-! ## JOBADD: validation (rule R201) -/

/-- `1 ≤ x ≤ 2^28` (condition 4). -/
def rateAccepted (x : BitVec 32) : Bool := decide (1 ≤ x.toNat) && decide (x.toNat ≤ Config.maxRate)

/-- Condition 8 for one range: empty, or inside the frame. -/
def rangeAccepted (rows : BitVec 32) (frameRows : Nat) : Bool :=
  rangeCount rows == 0 || decide (rangeFirst rows + rangeCount rows ≤ frameRows)

/-- Conditions 1 to 8 of rule R201, in its order. -/
def jobaddAccepted (g : Geometry) (a : Staging) : Bool :=
  (descriptorOf g.pixfmt).isSome
  && a.bits &&& 0xFFFCC0C0 == 0
  && decide ((stagedCriBits a).toNat ≤ Config.syncBitsMax) && decide ((stagedFrcBits a).toNat ≤ Config.syncBitsMax)
  && decide ((stagedCriBits a).toNat + (stagedFrcBits a).toNat ≤ 32)
  && rateAccepted g.rate && rateAccepted a.criRate && rateAccepted a.bitRate
  && a.id != 0
  && decide (1 ≤ a.payload.toNat) && decide (a.payload.toNat ≤ 8 * Config.payloadBuf)
  && g.bpl != 0 && decide (a.offset.toNat < g.bpl.toNat)
  && rangeAccepted a.rows0 (rowCount g) && rangeAccepted a.rows1 (rowCount g)

/-! ## JOBADD: Job selection and free-slot test (rules R202, R203) -/

/-- A Job that `A_GROUP` lets the new service share: `((JOB[i].id | A_ID) & ~A_GROUP) = 0`. -/
def shareable (a : Staging) (job : Job) : Bool := (job.id ||| a.id) &&& ~~~a.group == 0

/-- The least shareable Job below `NJOBS`, if any. -/
def sharedJob (s : State) : Option Nat :=
  (List.range s.njobs.toNat).find? fun i => shareable s.staging (s.job i)

/-- How many slots of a row are non-Job or already hold Job `j`. -/
def freeSlots (j : Nat) (row : Row) : Nat := row.countP fun v => !isJobSlot v || v == jobRef j

/-- Every named row has a slot to give and one to spare. -/
def rowsHaveRoom (j : Nat) (s : State) : Bool :=
  (stagedRows s.staging).all fun r => decide (1 < freeSlots j (s.row r))

/-! ## JOBADD: the commits (rules R205 to R207) -/

/-- Slot `s*` of rule R205: the one that holds Job `j`, else the least non-Job slot. -/
def reservedSlot (j : Nat) (row : Row) : Option Nat :=
  match row.findIdx? (fun v => v == jobRef j) with
  | some i => some i
  | none => row.findIdx? fun v => !isJobSlot v

/-- The forced-probe window of a registration: slot 7 holds -128 unless it holds a Job (rule R205). -/
def startDwell (row : Row) : Row := if isJobSlot (slotAt row 7) then row else row.set 7 dwellStart

/-- A row after Job `j` is reserved on it (rule R205). -/
def reserveRow (j : Nat) (row : Row) : Row :=
  match reservedSlot j row with
  | some i => startDwell (row.set i (jobRef j))
  | none => startDwell row

/-- The commit of the slots, row after row (rule R205). -/
def reserveRows (j : Nat) : List Nat → State → State
  | [], s => s
  | r :: rs, s => reserveRows j rs (setRow r (reserveRow j (s.row r)) s)

/-- `phase_shift` of rule R206: `floor(128 × SR / CR + q × SR / BR + 128)` with `q` 128 for NRZ and 64 for biphase; the
floor is taken once, of the exact sum over the common denominator. -/
def phaseShiftOf (sr cr br : Nat) (isBiphase : Bool) : Nat :=
  (128 * sr * br + (if isBiphase then 64 else 128) * sr * cr + 128 * cr * br) / (cr * br)

/-- `endian` of rules R103 and R206. -/
def endianOf (payloadBits : Nat) (m : BitVec 2) : BitVec 2 :=
  BitVec.ofNat 2 ((if payloadBits % 8 ≠ 0 then 2 else 0) + (if msbFirst m then 0 else 1))

/-- The Job a JOBADD writes: inputs copied, derived fields computed (rules R206, R207); `id` is the union with `oldId`. -/
def configuredJob (g : Geometry) (a : Staging) (oldId : BitVec 32) : Job :=
  let d := descriptorOrFree g.pixfmt
  let sr := g.rate.toNat
  let p := a.payload.toNat
  let lineSamples := (g.bpl.toNat - a.offset.toNat) / d.stride
  { id := oldId ||| a.id
    offset := a.offset
    pf := g.pixfmt
    rate := g.rate
    lineSamples := BitVec.ofNat 32 lineSamples
    cri := assembledCri a
    criMask := assembledCriMask a
    criBits := stagedCriBits a
    criRate := a.criRate
    frc := assembledFrc a
    frcBits := stagedFrcBits a
    payloadBits := BitVec.ofNat 16 p
    bitRate := a.bitRate
    modulation := stagedModulation a
    osRate := BitVec.ofNat 32 (Config.oversampling * sr)
    thresh := BitVec.ofNat 32 (Config.threshInit <<< Config.threshFrac)
    step := BitVec.ofNat 40 (256 * sr / a.bitRate.toNat)
    phaseShift := BitVec.ofNat 40 (phaseShiftOf sr a.criRate.toNat a.bitRate.toNat (biphase (stagedModulation a)))
    skip := BitVec.ofNat 8 d.skip
    endian := endianOf p (stagedModulation a)
    criSamples := BitVec.ofNat 32 (lineSamples - sr * (p + (stagedFrcBits a).toNat) / a.bitRate.toNat) }

/-- The commit of the Job and the status (rule R207). A new Job (`j = NJOBS`) starts from `id` 0. -/
def commitJob (j : Nat) (s : State) : State :=
  let isNew := j == s.njobs.toNat
  let oldId := if isNew then 0 else (s.job j).id
  finish .ok (BitVec.ofNat 32 j)
    { setJob j (configuredJob s.geom s.staging oldId) s with
      njobs := if isNew then s.njobs + 1 else s.njobs
      services := s.services ||| s.staging.id }

/-- Free-slot test, then the commits, for Job `j` (rules R203, R205 to R207). -/
def jobaddAt (j : Nat) (s : State) : State :=
  if rowsHaveRoom j s then commitJob j (reserveRows j (stagedRows s.staging) s) else raise .rejNoslot s

/-- `JOBADD`, the causes in the order of spec/60_exceptions.md rule R281. -/
def cmdJobadd (s : State) : State :=
  if !jobaddAccepted s.geom s.staging then raise .cfgError s
  else if s.params.maxLines < rowCount s.geom then raise .allocError s
  else
    match sharedJob s with
    | some j => jobaddAt j s
    | none => if s.njobs = 8 then raise .rejCapacity s else jobaddAt s.njobs.toNat s

/-- The meaning of `JOBADD` (rules R200 to R207, R223). -/
def execJobadd (s : State) : Host.Outcome State Fault Refusal := .next (complete (cmdJobadd s))

/-! ## RMSVC (rules R208, R209) -/

/-- The Job file after Job `i` of `n` is removed: the later Jobs move down, entry `n - 1` is cleared. -/
def removedJobs (i n : Nat) (jobs : List Job) : List Job :=
  (List.range Config.maxJobs).map fun m =>
    if m < i then jobs.getD m Job.zero
    else if m + 1 < n then jobs.getD (m + 1) Job.zero
    else if m + 1 = n then Job.zero
    else jobs.getD m Job.zero

/-- Job `i` removed: its references compacted out of every row, the Job file closed up, `NJOBS` counted down. -/
def removeJob (i : Nat) (s : State) : State :=
  { s with
    pat := s.pat.map (compactRow (jobRef i))
    jobs := removedJobs i s.njobs.toNat s.jobs
    njobs := s.njobs - 1 }

/-- The removal loop from Job `i` on, with `left = NJOBS - i` Jobs still to look at: a removal does not advance `i`. -/
def removeLoop (requested : BitVec 32) : (left i : Nat) → State → State
  | 0, _, s => s
  | left + 1, i, s =>
    if (s.job i).id &&& requested ≠ 0 then removeLoop requested left i (removeJob i s)
    else removeLoop requested left (i + 1) s

/-- The union of the identifiers of the first `n` Jobs (rule R32). -/
def unionIds (jobs : List Job) (n : Nat) : BitVec 32 := (jobs.take n).foldl (fun u job => u ||| job.id) 0

/-- `RMSVC` (rule R208); it cannot fail. -/
def cmdRmsvc (s : State) : State :=
  let t := removeLoop s.staging.id s.njobs.toNat 0 s
  let active := unionIds t.jobs t.njobs.toNat
  finish .ok active { t with services := active }

/-- The meaning of `RMSVC` (rules R208, R209, R224). -/
def execRmsvc (s : State) : Host.Outcome State Fault Refusal := .next (complete (cmdRmsvc s))

end Sys2Proof.Machine
end

