-- ==== Sys2Proof/Machine/Access.lean ====
section
/-! DEFINITION. Register access (spec/42_config.md rules R190 to R194). -/

namespace Sys2Proof.Machine

/-- `Execute(w)` (rule R194): the command a command word encodes, or `BAD_CMD` for an illegal word. -/
def executeCommand (w : BitVec 32) (s : State) : State :=
  match commandOf w with
  | some .reset => cmdReset s
  | some .jobadd => cmdJobadd s
  | some .rmsvc => cmdRmsvc s
  | some .decode => cmdDecode s
  | some (.slice a b) => cmdSlice a b s
  | some (.rd _) => raise .badCmd s
  | some (.wr _ _) => raise .badCmd s
  | none => raise .badCmd s

/-- A write of a geometry register: refused with `GEOM_LOCKED` while a Job exists (rule R192). -/
def writeGeometry (g : GeomReg) (v : BitVec 32) (s : State) : State :=
  if s.njobs ≠ 0 then raise .geomLocked s else { s with geom := writeGeom s.geom v g }

/-- `WR reg, data` (rule R190). -/
def writeReg (reg : BitVec 7) (data : BitVec 32) (s : State) : State :=
  match regName reg with
  | .cmd => executeCommand data s
  | .geom g => writeGeometry g data s
  | .stage a => { s with staging := writeStage s.staging data a }
  | .status _ => s
  | .reserved => s

/-- The meaning of `WR reg, data` (rules R190, R220). -/
def execWr (reg : BitVec 7) (data : BitVec 32) (s : State) : Host.Outcome State Fault Refusal :=
  .next (complete (writeReg reg data s))

/-- The meaning of `RD reg` (rules R191, R221): the reply is the register's value; nothing else changes. -/
def execRd (reg : BitVec 7) (s : State) : Host.Outcome State Fault Refusal :=
  .next (complete { s with reply := some (readReg s reg) })

end Sys2Proof.Machine
end

