-- ==== Sys2Proof/Machine/Dispatch.lean ====
section
/-! DEFINITION. The meaning of every instruction, one arm per constructor of Instr. -/

namespace Sys2Proof.Machine

def exec (i : Instr) (s : State) : Host.Outcome State Fault Refusal :=
  match i with
  | .rd reg => Sys2Proof.Machine.execRd reg s
  | .wr reg data => Sys2Proof.Machine.execWr reg data s
  | .reset => Sys2Proof.Machine.execReset s
  | .jobadd => Sys2Proof.Machine.execJobadd s
  | .rmsvc => Sys2Proof.Machine.execRmsvc s
  | .decode => Sys2Proof.Machine.execDecode s
  | .slice a b => Sys2Proof.Machine.execSlice a b s

end Sys2Proof.Machine
end

