-- ==== Sys2Proof/Machine/HostSide.lean ====
section
/-! DEFINITION. What the host does at the block's interface besides issuing transactions (spec/00_scope.md rule R11,
spec/20_memory.md rules R61, R62, R77), and the power-on reset input (spec/70_reset_and_hazards.md rule R300). -/

namespace Sys2Proof.Machine

/-- The host fills RAW: its contents and its size `RAW_BYTES` are those of the bytes given (rules R11, R61). -/
def hostFillRaw (bytes : List Byte) (s : State) : State :=
  { s with raw := Memory.ofBytes bytes, rawBytes := bytes.length }

/-- The size of OUT in bytes (rule R62). -/
def outBytes (s : State) : Nat := Config.recordBytes * s.params.outRecords

/-- The host stores bytes in OUT from address 0; OUT has no byte past its size (rules R62, R77). -/
def hostFillOut (bytes : List Byte) (s : State) : State :=
  { s with out := s.out.writeBytes 0 (bytes.take (outBytes s)) }

/-- The reset input is asserted (rule R300, spec/10_state.md rule R42): every register at its power-on value. RAW and OUT,
which the host owns, keep their contents (notes/assumptions/8.md); the working registers are unspecified. -/
def assertReset (s : State) : State :=
  { State.resetOf s.params with
    work := Config.freeSlicerRegs s.freeDraws
    raw := s.raw
    rawBytes := s.rawBytes
    out := s.out
    reply := s.reply
    host := s.host
    freeDraws := s.freeDraws + 1 }

end Sys2Proof.Machine
end

