-- ==== Sys2Proof/Machine/Step.lean ====
section
/-! DEFINITION. One step: the host's next action at the block's interface. A transaction is decoded and executed to its end
(spec/42_config.md rule R194, spec/70_reset_and_hazards.md rule R320: one transaction is one step). -/

namespace Sys2Proof.Machine

/-- One step of the machine. With no host action the block waits and holds its state (rules R289, R300). A transaction
presented while a command runs is stuck (U6). -/
def step (s : State) : Host.Outcome State Fault Refusal :=
  match s.seq with
  | .idle =>
    match s.host with
    | [] => .next s
    | .transaction t :: _ => exec (decode t) s
    | .fillRaw bytes :: _ => .next (complete (hostFillRaw bytes s))
    | .fillOut bytes :: _ => .next (complete (hostFillOut bytes s))
    | .powerOnReset :: _ => .next (complete (assertReset s))
  | _ => .fault .commandInProgress

/-- `s` with the transaction whose bits are the low `nbits` bits of `w` (numbered as spec/opcode_table.json numbers them, the
bits above 0) presented by the host as its next action: it stands for the host issuing that transaction
(notes/assumptions/1.md). -/
def State.withFetchWord (s : State) (nbits w : Nat) : State :=
  { s with host := .transaction (BitVec.ofNat 40 (w % 2 ^ nbits)) :: s.host }

end Sys2Proof.Machine
end

