-- ==== Sys2Proof/Machine/HostProc.lean ====
section
/-! DEFINITION. The host procedures ADDSVC and PARAMS (spec/42_config.md rules R210 to R218): no instructions of the block but
programs of the host that expand to transactions (spec/30_encoding.md rule R108). Each transaction runs through `step`. -/

namespace Sys2Proof.Machine

/-! ## Transactions of a host procedure -/

/-- The host issues one instruction's transaction word and waits for its end. -/
def issue (i : Instr) (s : State) : State :=
  match step { s with host := .transaction (encode i) :: s.host } with
  | .next t => t
  | .fault _ => s
  | .refused _ => s

/-- `WR reg, data`. -/
def issueWr (reg : BitVec 7) (data : BitVec 32) (s : State) : State := issue (.wr reg data) s

/-- A list of register writes, in order. -/
def issueWrs : List (BitVec 7 × BitVec 32) → State → State
  | [], s => s
  | (reg, data) :: rest, s => issueWrs rest (issueWr reg data s)

/-- `RD reg`: the state after it and the reply. -/
def issueRd (reg : BitVec 7) (s : State) : State × BitVec 32 :=
  let t := issue (.rd reg) s
  (t, t.reply.getD 0)

/-! ## The exact quantities of the acceptance tests (rules R212, R213) -/

/-- `p / q` over the rationals; a free value when `q = 0` (notes/assumptions/7.md). -/
def quotient (p q : ℚ) : ℚ := if q = 0 then Config.freeQuotient p else p / q

/-- `e.scan` contains the standard `scan` (rule R211). -/
def entryHasScan (e : Config.ServiceEntry) (scan : Nat) : Bool :=
  (scan == 525 && e.scan525) || (scan == 625 && e.scan625)

/-- `signal_ns` (rule R212). -/
def signalNs (e : Config.ServiceEntry) : ℚ :=
  10 ^ 9 * (quotient e.criBits.toNat e.criRate.toNat
    + quotient ((e.frcBits.toNat : ℚ) + e.payloadBits.toNat) e.bitRate.toNat)

/-- `G_BPL div stride`: whole pixels of a line. -/
def lineSamplesOf (g : Geometry) : Nat := g.bpl.toNat / (descriptorOrFree g.pixfmt).stride

/-- `BURST_END_NS(scan)`. -/
def burstEnd (hp : Config.HostParams) (scan : Nat) : Nat := if scan = 525 then hp.burstEnd525 else hp.burstEnd625

/-- The window check (rule R212): the service's signal lies inside the acquisition window, with the margins. -/
def windowCheck (hp : Config.HostParams) (g : Geometry) (e : Config.ServiceEntry) : Bool :=
  let start := quotient (10 ^ 9 * g.offset.toNat) g.rate.toNat
  let stop := quotient (10 ^ 9 * ((g.offset.toNat : ℚ) + lineSamplesOf g)) g.rate.toNat
  !(decide ((e.offsetNs : ℚ) - hp.winMarginNs < start)) && !(decide (stop < e.offsetNs + signalNs e + hp.winMarginNs))

/-- The length check (rule R213). -/
def lengthCheck (hp : Config.HostParams) (g : Geometry) (e : Config.ServiceEntry) : Bool :=
  !(decide (quotient (10 ^ 9 * (lineSamplesOf g : ℚ)) g.rate.toNat < signalNs e + hp.lenMarginNs))

/-- Whether rule R212 applies, and not rule R213: `strictness ≥ 1` and `G_OFFSET > 0`. -/
def windowApplies (g : Geometry) (strictness : Nat) : Bool := decide (1 ≤ strictness) && decide (0 < g.offset.toNat)

/-- `WindowOK(e, strictness)` (rule R210). -/
def windowOk (hp : Config.HostParams) (g : Geometry) (e : Config.ServiceEntry) (strictness : Nat) : Bool :=
  if windowApplies g strictness then windowCheck hp g e else lengthCheck hp g e

/-- `skip`, in samples (rules R212, R213): `max(0, floor(BURST_END_NS × G_RATE / 10^9) - G_OFFSET)`. -/
def leadingSkip (hp : Config.HostParams) (g : Geometry) (strictness : Nat) : Nat :=
  if windowApplies g strictness then burstEnd hp g.scan.toNat * g.rate.toNat / 10 ^ 9 - g.offset.toNat else 0

/-! ## Row ranges (rule R214) -/

/-- The range of one field, as `(first, count)`; `none` is "reject". The rule gives an empty range no `first`: that it is 0 is a
DESIGN CHOICE, notes/assumptions/20.md. -/
def fieldRange (strictness first last start count row0 : Nat) : Option (Nat × Nat) :=
  let stop := start + count - 1
  if first = 0 ∨ last = 0 then some (0, 0)
  else if count = 0 then none
  else if 0 < start ∧ 0 < strictness then
    if (1 < strictness ∨ first = last) ∧ (first < start ∨ stop < last) then none
    else
      let lo := max start first
      let hi := min stop last
      if hi < lo then none else some (row0 + lo - start, hi - lo + 1)
  else some (row0, count)

/-- The two ranges of an entry, packed as `A_ROWS0`, `A_ROWS1` (spec/30_encoding.md rule R97). -/
def rowRanges (g : Geometry) (e : Config.ServiceEntry) (strictness : Nat) : Option (BitVec 32 × BitVec 32) :=
  match fieldRange strictness e.first0 e.last0 g.start0.toNat g.count0.toNat 0,
      fieldRange strictness e.first1 e.last1 g.start1.toNat g.count1.toNat g.count0.toNat with
  | some (f0, c0), some (f1, c1) =>
    some (BitVec.ofNat 16 c0 ++ BitVec.ofNat 16 f0, BitVec.ofNat 16 c1 ++ BitVec.ofNat 16 f1)
  | _, _ => none

/-! ## ADDSVC (rules R210 to R215) -/

/-- `A_BITS` of an entry (spec/30_encoding.md rule R96). -/
def entryBits (e : Config.ServiceEntry) : BitVec 32 :=
  (0 : BitVec 14) ++ e.modulation ++ (0 : BitVec 2) ++ e.frcBits ++ (0 : BitVec 2) ++ e.criBits

/-- The register writes of one accepted entry, in the order of rule R210. -/
def entryWrites (hp : Config.HostParams) (g : Geometry) (e : Config.ServiceEntry) (strictness : Nat)
    (rows : BitVec 32 × BitVec 32) : List (BitVec 7 × BitVec 32) :=
  [(0x10, e.id), (0x11, e.group),
   (0x12, BitVec.ofNat 32 (leadingSkip hp g strictness * (descriptorOrFree g.pixfmt).stride)),
   (0x13, e.criFrc), (0x14, e.criMask), (0x15, entryBits e), (0x16, e.criRate), (0x17, e.bitRate),
   (0x18, e.payloadBits), (0x19, rows.1), (0x1A, rows.2)]

/-- A "raw, unclassified VBI" entry of the catalogue: it carries line ranges and no signal, that is no CRI, FRC or payload bit
(rule R217; notes/assumptions/19.md). -/
def carriesNoSignal (e : Config.ServiceEntry) : Bool := e.criBits == 0 && e.frcBits == 0 && e.payloadBits == 0

/-- What an entry of the catalogue writes, when the acceptance tests grant it (rules R210 to R214). An entry without a signal
never reaches JOBADD (rule R217). -/
def acceptEntry (hp : Config.HostParams) (g : Geometry) (requested : BitVec 32) (strictness : Nat)
    (e : Config.ServiceEntry) : Option (List (BitVec 7 × BitVec 32)) :=
  if e.id &&& requested = 0 then none
  else if carriesNoSignal e then none
  else if !entryHasScan e g.scan.toNat then none
  else if !windowOk hp g e strictness then none
  else if !synchronous g then none
  else (rowRanges g e strictness).map (entryWrites hp g e strictness)

/-- What a host procedure returns. -/
inductive HostReply where
  /-- ADDSVC: `SERVICES`, with this call's share `granted` -/
  | services (active granted : BitVec 32)
  /-- ADDSVC: the error class passed to the caller, `CFG_ERROR` or `ALLOC_ERROR`, as the code read from `R_RESULT` -/
  | error (code : BitVec 32)
  deriving DecidableEq, Repr

/-- The loop of ADDSVC over the catalogue. -/
def addsvcLoop (hp : Config.HostParams) (requested : BitVec 32) (strictness : Nat) :
    List Config.ServiceEntry → BitVec 32 → State → State × HostReply
  | [], granted, s =>
    let (t, active) := issueRd 0x22 s
    (t, .services active granted)
  | e :: rest, granted, s =>
    let (s1, njobs) := issueRd 0x23 s
    if 8 ≤ njobs.toNat then
      let (t, active) := issueRd 0x22 s1
      (t, .services active granted)
    else
      match acceptEntry hp s1.geom requested strictness e with
      | none => addsvcLoop hp requested strictness rest granted s1
      | some writes =>
        let (s2, code) := issueRd 0x20 (issue .jobadd (issueWrs writes s1))
        if code = 0 then addsvcLoop hp requested strictness rest (granted ||| e.id) s2
        else if code = 4 ∨ code = 5 then (s2, .error code)
        else addsvcLoop hp requested strictness rest granted s2

/-- `ADDSVC(requested, strictness)` (rule R210). -/
def addsvcProcedure (hp : Config.HostParams) (requested : BitVec 32) (strictness : Nat) (s : State) : State × HostReply :=
  addsvcLoop hp requested strictness hp.table 0 s

/-! ## PARAMS (rules R216, R217) -/

/-- `min` and `max` that ignore `none` (rule R217). -/
def minSome (a : Option Nat) (b : Nat) : Option Nat := some (match a with | some x => min x b | none => b)
/-- `min` and `max` that ignore `none` (rule R217). -/
def maxSome (a : Option Nat) (b : Nat) : Option Nat := some (match a with | some x => max x b | none => b)

/-- What PARAMS accumulates over the catalogue. -/
structure ParamsAcc where
  scan : Nat
  achievable : BitVec 32
  off : Option Nat
  stop : Option Nat
  lo0 : Option Nat
  lo1 : Option Nat
  hi0 : Option Nat
  hi1 : Option Nat
  deriving DecidableEq, Repr

/-- One entry of the catalogue (rule R217). -/
def paramsEntry (hp : Config.HostParams) (requested : BitVec 32) (acc : ParamsAcc) (e : Config.ServiceEntry) :
    ParamsAcc :=
  if e.id &&& requested = 0 then acc
  else
    let scan := if acc.scan = 0 then (if e.scan525 then 525 else 625) else acc.scan
    if !entryHasScan e scan then { acc with scan := scan }
    else
      let o := e.offsetNs * hp.refRate / 10 ^ 9
      let n := ((signalNs e + hp.lenMarginNs) * hp.refRate / 10 ^ 9).floor.toNat
      let uses0 := e.first0 ≠ 0 ∧ e.last0 ≠ 0
      let uses1 := e.first1 ≠ 0 ∧ e.last1 ≠ 0
      { scan := scan
        achievable := acc.achievable ||| e.id
        off := minSome acc.off o
        stop := maxSome acc.stop (o + n)
        lo0 := if uses0 then minSome acc.lo0 e.first0 else acc.lo0
        hi0 := if uses0 then maxSome acc.hi0 e.last0 else acc.hi0
        lo1 := if uses1 then minSome acc.lo1 e.first1 else acc.lo1
        hi1 := if uses1 then maxSome acc.hi1 e.last1 else acc.hi1 }

/-- The accumulation over the whole catalogue. -/
def paramsAcc (hp : Config.HostParams) (requested : BitVec 32) (scanHint : Nat) : ParamsAcc :=
  hp.table.foldl (paramsEntry hp requested)
    { scan := scanHint, achievable := 0, off := none, stop := none, lo0 := none, lo1 := none, hi0 := none, hi1 := none }

/-- `hi - lo + 1` as the 32 bits the host writes (notes/assumptions/15.md), 0 when the field is unused. -/
def fieldCount (lo hi : Option Nat) : Nat :=
  match lo, hi with
  | some l, some h => (((h : Int) - l + 1) % 2 ^ 32).toNat
  | _, _ => 0

/-- The geometry writes of PARAMS, in the order of rule R217. -/
def paramsWrites (hp : Config.HostParams) (acc : ParamsAcc) : List (BitVec 7 × BitVec 32) :=
  [(0x00, 0x01), (0x01, BitVec.ofNat 32 hp.refRate), (0x09, BitVec.ofNat 32 acc.scan),
   (0x03, BitVec.ofNat 32 (acc.off.getD 0)), (0x02, BitVec.ofNat 32 (acc.stop.getD 0 - acc.off.getD 0)),
   (0x04, BitVec.ofNat 32 (acc.lo0.getD 0)), (0x06, BitVec.ofNat 32 (fieldCount acc.lo0 acc.hi0)),
   (0x05, BitVec.ofNat 32 (acc.lo1.getD 0)), (0x07, BitVec.ofNat 32 (fieldCount acc.lo1 acc.hi1)),
   (0x08, 0x02)]

/-- `PARAMS(requested, scan_hint)` (rules R216, R217): the state after the geometry writes, and the achievable set. -/
def paramsProcedure (hp : Config.HostParams) (requested : BitVec 32) (scanHint : Nat) (s : State) : State × BitVec 32 :=
  let acc := paramsAcc hp requested scanHint
  (issueWrs (paramsWrites hp acc) s, acc.achievable)

/-- `remove_services(requested)` (rules R208, R218): `A_ID` written, RMSVC issued, `R_VALUE` read. -/
def removeServices (requested : BitVec 32) (s : State) : State × BitVec 32 :=
  issueRd 0x21 (issue .rmsvc (issueWr 0x10 requested s))

end Sys2Proof.Machine
end

