-- ==== Sys2Proof/Safety.lean ====
section
/-! DEFINITION. What counts as a good state and a safe run, in the terms the claims use: the invariants the spec gives
(spec/10_state.md rules R32, R35, R37, R38; spec/41_slicer.md rule R168; spec/93_implementation_defined.md U7), and the
conditions of JOBADD as spec/42_config.md rule R201 writes them. -/

namespace Sys2Proof.Safety

open Sys2Proof.Machine

/-! ## Safe steps -/

/-- A step is safe when it answers a next state: no fault and no refusal. -/
def StepsOn (s : State) : Prop := ∃ t, step s = .next t

/-! ## Shapes -/

/-- The sizes of the files: 8 Jobs, `NJOBS ≤ 8`, `MAX_LINES` rows of 8 slots (rules R32, R35, R36). -/
structure ShapeOk (s : State) : Prop where
  jobs : s.jobs.length = 8
  njobs : s.njobs.toNat ≤ 8
  pat : s.pat.length = s.params.maxLines
  rows : ∀ row ∈ s.pat, row.length = 8

/-- Both memories are in canonical form, RAW lists nothing at or past `RAW_BYTES`. -/
structure MemoriesOk (s : State) : Prop where
  raw : s.raw.wf = true
  out : s.out.wf = true
  rawInside : ∀ a, s.rawBytes ≤ a → s.raw.read a = unlistedByte

/-! ## The candidate-slot memory (rule R38) -/

/-- The invariants of one row of PAT with `n` Jobs (rule R38 (a) to (e)). -/
structure RowOk (n : Nat) (row : Row) : Prop where
  /-- (a) every Job value `v` satisfies `1 ≤ v ≤ NJOBS` -/
  refs : ∀ i < 8, isJobSlot (slotAt row i) = true → (slotAt row i).toNat ≤ n
  /-- (b) a Job value occurs at most once -/
  once : ∀ i < 8, ∀ k < 8, isJobSlot (slotAt row i) = true → slotAt row i = slotAt row k → i = k
  /-- (c) at least one slot is not a Job -/
  spare : ∃ i < 8, isJobSlot (slotAt row i) = false
  /-- (d) the Job slots are slots `0 .. m-1` (A-state), or slot 0 is non-Job and they are slots `1 .. m` (B-state) -/
  block : ∃ m ≤ 7, (∀ i < 8, isJobSlot (slotAt row i) = decide (i < m)) ∨
    (∀ i < 8, isJobSlot (slotAt row i) = decide (1 ≤ i ∧ i ≤ m))
  /-- (e) slot 7 holds a Job only in a B-state with `m = 7` -/
  last : isJobSlot (slotAt row 7) = true →
    isJobSlot (slotAt row 0) = false ∧ ∀ i < 8, 1 ≤ i → isJobSlot (slotAt row i) = true

/-- Rule R38 for the whole of PAT. -/
structure PatOk (s : State) : Prop where
  shape : ShapeOk s
  rows : ∀ row ∈ s.pat, RowOk s.njobs.toNat row

/-! ## The Job file -/

/-- Rule R168: every threshold is below 195585, and every Job has a known pixel format (rule R132). -/
structure ThresholdsOk (s : State) : Prop where
  shape : ShapeOk s
  formats : ∀ j < s.njobs.toNat, (descriptorOf (s.job j).pf).isSome = true
  bound : ∀ job ∈ s.jobs, job.thresh.toNat < 195585

/-- Rule R32 (`SERVICES` is the union of the Job ids) and U7 (entries at and above `NJOBS` are all 0). -/
structure ServicesOk (s : State) : Prop where
  shape : ShapeOk s
  services : s.services = ((List.range s.njobs.toNat).map fun j => (s.job j).id).foldl (· ||| ·) 0
  above : ∀ j, s.njobs.toNat ≤ j → s.job j = Job.zero

/-- A Job as JOBADD configures it under geometry `g`: accepted inputs (rule R201) and derived fields that are functions of
them (rules R35, R206). The threshold, which SLICE tracks, is left out. -/
structure JobConfigured (g : Geometry) (job : Job) (d : Config.PixelDescriptor) : Prop where
  format : descriptorOf job.pf = some d
  pf : job.pf = g.pixfmt
  rate : job.rate = g.rate
  rateMin : 1 ≤ job.rate.toNat
  rateMax : job.rate.toNat ≤ 2 ^ 28
  criRateMin : 1 ≤ job.criRate.toNat
  criRateMax : job.criRate.toNat ≤ 2 ^ 28
  bitRateMin : 1 ≤ job.bitRate.toNat
  bitRateMax : job.bitRate.toNat ≤ 2 ^ 28
  syncBits : job.criBits.toNat + job.frcBits.toNat ≤ 32
  payloadMin : 1 ≤ job.payloadBits.toNat
  payloadMax : job.payloadBits.toNat ≤ 448
  offset : job.offset.toNat < g.bpl.toNat
  id : job.id ≠ 0
  masked : job.cri &&& job.criMask = job.cri
  lineSamples : job.lineSamples.toNat = (g.bpl.toNat - job.offset.toNat) / d.stride
  osRate : job.osRate.toNat = 4 * job.rate.toNat
  step : job.step.toNat = 256 * job.rate.toNat / job.bitRate.toNat
  phaseShift : (job.phaseShift.toNat : ℤ) =
    ⌊(128 * job.rate.toNat / job.criRate.toNat
      + (if job.modulation.getLsbD 1 then 64 else 128) * job.rate.toNat / job.bitRate.toNat + 128 : ℚ)⌋
  skip : job.skip.toNat = d.skip
  endian : job.endian.toNat =
    (if job.payloadBits.toNat % 8 ≠ 0 then 2 else 0) + (if job.modulation.getLsbD 0 then 0 else 1)
  criSamples : job.criSamples.toNat =
    job.lineSamples.toNat - job.rate.toNat * (job.payloadBits.toNat + job.frcBits.toNat) / job.bitRate.toNat

/-- Every Job below `NJOBS` is as JOBADD configures it under the current geometry, which is locked while a Job exists (rules
R35, R192), and while a Job exists the frame fits PAT (spec/43_scheduler.md rule R231). -/
structure JobsOk (s : State) : Prop where
  shape : ShapeOk s
  jobs : ∀ j < s.njobs.toNat, ∃ d, JobConfigured s.geom (s.job j) d
  frame : s.njobs ≠ 0 → rowCount s.geom ≤ s.params.maxLines

/-! ## Pixel formats -/

/-- The table of descriptors that closes spec/40_sample_demux.md section 3 (rules R125 to R131), line by line: code, stride,
skip, unit, be (0 where the table has a dash), shift, width. -/
def descriptorTable : List (Nat × Nat × Nat × Nat × Nat × Nat × Nat) :=
  [ (0x01, 1, 0, 1, 0, 0, 8), (0x02, 2, 0, 1, 0, 0, 8), (0x03, 2, 0, 1, 0, 0, 8), (0x04, 2, 1, 1, 0, 0, 8),
    (0x05, 2, 1, 1, 0, 0, 8), (0x10, 3, 1, 1, 0, 0, 8), (0x11, 3, 1, 1, 0, 0, 8), (0x20, 2, 0, 2, 0, 5, 6),
    (0x21, 2, 0, 2, 1, 5, 6), (0x22, 2, 0, 2, 0, 5, 6), (0x23, 2, 0, 2, 1, 5, 6), (0x24, 2, 0, 2, 0, 5, 5),
    (0x25, 2, 0, 2, 1, 5, 5), (0x26, 2, 0, 2, 0, 5, 5), (0x27, 2, 0, 2, 1, 5, 5), (0x28, 2, 0, 2, 0, 6, 5),
    (0x29, 2, 0, 2, 1, 6, 5), (0x2A, 2, 0, 2, 0, 6, 5), (0x2B, 2, 0, 2, 1, 6, 5), (0x30, 2, 0, 2, 0, 4, 4),
    (0x31, 2, 0, 2, 1, 4, 4), (0x32, 2, 0, 2, 0, 4, 4), (0x33, 2, 0, 2, 1, 4, 4), (0x34, 2, 0, 2, 0, 8, 4),
    (0x35, 2, 0, 2, 1, 8, 4), (0x36, 2, 0, 2, 0, 8, 4), (0x37, 2, 0, 2, 1, 8, 4), (0x40, 1, 0, 1, 0, 3, 3),
    (0x41, 1, 0, 1, 0, 2, 3) ]

/-! ## JOBADD's conditions (rule R201), in arithmetic -/

/-- The pixel-format codes of spec/30_encoding.md rule R101. -/
def knownFormats : List Nat :=
  [0x01, 0x02, 0x03, 0x04, 0x05, 0x10, 0x11, 0x20, 0x21, 0x22, 0x23, 0x24, 0x25, 0x26, 0x27, 0x28, 0x29, 0x2A, 0x2B,
   0x30, 0x31, 0x32, 0x33, 0x34, 0x35, 0x36, 0x37, 0x40, 0x41]

/-- `cri_bits = A_BITS[5:0]`. -/
def criBits (s : State) : Nat := s.staging.bits.toNat % 64
/-- `frc_bits = A_BITS[13:8]`. -/
def frcBits (s : State) : Nat := s.staging.bits.toNat / 256 % 64
/-- `ROWS`. -/
def frameRows (s : State) : Nat := s.geom.count0.toNat + s.geom.count1.toNat

/-- Row `r` is named by the range in `rows` (spec/30_encoding.md rule R97). -/
def inRange (rows : BitVec 32) (r : Nat) : Prop :=
  rows.toNat % 65536 ≤ r ∧ r < rows.toNat % 65536 + rows.toNat / 65536

/-- Row `r` is named by one of the two ranges. -/
def named (s : State) (r : Nat) : Prop := inRange s.staging.rows0 r ∨ inRange s.staging.rows1 r

/-- The eight conditions of rule R201. -/
structure JobaddConditions (s : State) : Prop where
  format : s.geom.pixfmt.toNat ∈ knownFormats
  mbz : s.staging.bits &&& 0xFFFCC0C0 = 0
  syncBits : criBits s ≤ 32 ∧ frcBits s ≤ 32 ∧ criBits s + frcBits s ≤ 32
  rates : (1 ≤ s.geom.rate.toNat ∧ s.geom.rate.toNat ≤ 2 ^ 28) ∧
    (1 ≤ s.staging.criRate.toNat ∧ s.staging.criRate.toNat ≤ 2 ^ 28) ∧
    (1 ≤ s.staging.bitRate.toNat ∧ s.staging.bitRate.toNat ≤ 2 ^ 28)
  id : s.staging.id ≠ 0
  payload : 1 ≤ s.staging.payload.toNat ∧ s.staging.payload.toNat ≤ 448
  offset : s.geom.bpl ≠ 0 ∧ s.staging.offset.toNat < s.geom.bpl.toNat
  range0 : s.staging.rows0.toNat / 65536 = 0 ∨
    s.staging.rows0.toNat % 65536 + s.staging.rows0.toNat / 65536 ≤ frameRows s
  range1 : s.staging.rows1.toNat / 65536 = 0 ∨
    s.staging.rows1.toNat % 65536 + s.staging.rows1.toNat / 65536 ≤ frameRows s

/-- An existing Job `i` that the staged service may share (rule R202). -/
def Shares (s : State) (i : Nat) : Prop :=
  i < s.njobs.toNat ∧ ((s.job i).id ||| s.staging.id) &&& ~~~s.staging.group = 0

/-- Job `j` is the one JOBADD selects (rule R202): the least shareable one, or a new one when there is none and `NJOBS ≠ 8`. -/
def Selected (s : State) (j : Nat) : Prop :=
  (Shares s j ∧ ∀ i < j, ¬ Shares s i) ∨ ((∀ i, ¬ Shares s i) ∧ s.njobs.toNat ≠ 8 ∧ j = s.njobs.toNat)

/-- How many slots of row `r` are non-Job or hold Job `j` (rule R203). -/
def roomOn (s : State) (j r : Nat) : Nat :=
  ((List.range 8).filter fun i => !isJobSlot (slotAt (s.row r) i) || slotAt (s.row r) i == BitVec.ofNat 8 (j + 1)).length

/-! ## Power-on values (rule R42) -/

/-- The registers after power-on reset: everything 0 but `RETEST = 1`, the sequencer idle. -/
structure PowerOnValues (s : State) : Prop where
  geom : s.geom = { pixfmt := 0, rate := 0, bpl := 0, offset := 0, start0 := 0, start1 := 0, count0 := 0, count1 := 0,
                    flags := 0, scan := 0 }
  staging : s.staging = { id := 0, group := 0, offset := 0, criFrc := 0, criMask := 0, bits := 0, criRate := 0,
                          bitRate := 0, payload := 0, rows0 := 0, rows1 := 0, outCap := 0, addr := 0 }
  result : s.result = 0
  value : s.value = 0
  services : s.services = 0
  njobs : s.njobs = 0
  retest : s.retest = 1
  jobs : s.jobs.length = 8 ∧ ∀ j < 8, s.job j = Job.zero
  pat : s.pat.length = s.params.maxLines ∧ ∀ r < s.params.maxLines, ∀ i < 8, slotAt (s.row r) i = 0
  seq : s.seq = .idle

/-! ## The row walk of DECODE -/

/-- Slot `i` of row `r` refers to the existing Job `j` (rule R37). -/
def Candidate (s : State) (r i j : Nat) : Prop :=
  slotAt (s.row r) i = BitVec.ofNat 8 (j + 1) ∧ j < s.njobs.toNat ∧ s.njobs.toNat ≤ 8

/-- What a SLICE of Job `j` on row `r` computes (spec/20_memory.md rule R72). -/
def sliceOn (s : State) (r j : Nat) : SliceResult :=
  sliceJob (sampleSource s (s.job j) (rowBase s.geom r + (s.job j).offset.toNat)) (s.job j)

/-- The Jobs that row `r` refers to, in slot order. -/
def referenced (s : State) (r : Nat) : List Job :=
  ((s.row r).filter isJobSlot).map fun v => s.job (v.toNat - 1)

/-- A Job slot that refers to no Job (spec/43_scheduler.md rule R253). -/
def Dangling (s : State) (r i : Nat) : Prop :=
  isJobSlot (slotAt (s.row r) i) = true ∧ s.njobs.toNat < (slotAt (s.row r) i).toNat

/-- The Job slot `i` of row `r` was sliced with a match whose payload `CHECK` rejects (spec/43_scheduler.md rule R238),
whatever the undefined bits of the payload are. -/
def CheckFails (s : State) (r i : Nat) : Prop :=
  ∃ k bits thresh, Candidate s r i k ∧ sliceOn s r k = .matched bits thresh ∧
    ∀ pad, checkPasses s.params (s.job k).id (pack (s.job k).endian pad bits) = false

/-- Slot `i` of row `r` holds a Job reference that does not hit: a dangling one (rule R253), one whose SLICE finds no match
(rule R239), or one whose payload fails `CHECK` (rule R238). -/
def Missed (s : State) (r i : Nat) : Prop :=
  Dangling s r i ∨ (∃ k, Candidate s r i k ∧ sliceOn s r k = .noMatch) ∨ CheckFails s r i

/-- The walk of row `r` comes to slot `p`: every slot in front of it misses, and no Job whose threshold a failed `CHECK` has
moved is tested a second time (rule R38 (b) rules that out: a Job occurs at most once in a row). -/
structure Reached (s : State) (r p : Nat) : Prop where
  missed : ∀ i < p, Missed s r i
  once : ∀ i q, i < q → q ≤ p → CheckFails s r i → slotAt (s.row r) i ≠ slotAt (s.row r) q

/-- The Jobs after the slots `0 .. p-1` of row `r` were walked: a Job whose SLICE matched keeps the tracked threshold, whether
`CHECK` passed or not (rules R165, R238); every other Job is as it was (rules R159, R277). -/
structure JobsTracked (s t : State) (r p : Nat) : Prop where
  length : t.jobs.length = s.jobs.length
  matched : ∀ i < p, ∀ k bits thresh, Candidate s r i k → sliceOn s r k = .matched bits thresh →
    t.job k = { s.job k with thresh := BitVec.ofNat 32 thresh }
  others : ∀ m, (∀ i < p, Candidate s r i m → ∀ bits thresh, sliceOn s r m ≠ .matched bits thresh) → t.job m = s.job m

/-- `LineNumber(r)` of spec/43_scheduler.md rule R240, in arithmetic. -/
def lineOf (s : State) (r : Nat) : Nat :=
  if r < s.geom.count0.toNat then
    if s.geom.start0.toNat = 0 then 0 else (s.geom.start0.toNat + r) % 2 ^ 32
  else
    if s.geom.start1.toNat = 0 then 0 else (s.geom.start1.toNat + (r - s.geom.count0.toNat)) % 2 ^ 32

/-- Rule R99 in arithmetic, on the fields `OP`, `A`, `B` of a command word. -/
def IllegalWord (w : BitVec 32) : Prop :=
  ¬ (1 ≤ w.toNat % 256 ∧ w.toNat % 256 ≤ 5) ∨
  (w.toNat % 256 ≤ 4 ∧ (w.toNat / 256 % 256 ≠ 0 ∨ w.toNat / 65536 ≠ 0)) ∨
  (w.toNat % 256 = 5 ∧ 7 < w.toNat / 256 % 256)

/-! ## RMSVC -/

/-- Job `j` exists and carries one of the requested identifiers (spec/42_config.md rule R208). -/
def requestedJob (s : State) (j : Nat) : Bool := decide (j < s.njobs.toNat) && (s.job j).id &&& s.staging.id != 0

/-- What remains of a row after RMSVC, before the padding: the references to removed Jobs dropped, every other reference
counted down by the number of removed Jobs below it, Blanks and countdowns kept (rule R209, removal after removal). -/
def remainingSlots (s : State) (row : Row) : Row :=
  (row.filter fun v => !(isJobSlot v && requestedJob s (v.toNat - 1))).map fun v =>
    if isJobSlot v then v - BitVec.ofNat 8 ((List.range (v.toNat - 1)).countP (requestedJob s)) else v

/-! ## ADDSVC (rules R210 to R214) -/

/-- `signal_ns` of rule R212, for an entry whose rates are not 0. -/
def signalOf (e : Config.ServiceEntry) : ℚ :=
  10 ^ 9 * ((e.criBits.toNat : ℚ) / e.criRate.toNat + ((e.frcBits.toNat : ℚ) + e.payloadBits.toNat) / e.bitRate.toNat)

/-- The rates that rules R212 and R213 divide by are not 0, and `G_PIXFMT` has the descriptor `d`: the cases in which those
rules state a result (notes/assumptions/6.md, 7.md). -/
structure RatesGiven (g : Geometry) (e : Config.ServiceEntry) (d : Config.PixelDescriptor) : Prop where
  rate : g.rate ≠ 0
  criRate : e.criRate ≠ 0
  bitRate : e.bitRate ≠ 0
  format : descriptorOf g.pixfmt = some d

/-- Rule R212, and where `G_OFFSET` is 0 or the strictness is 0 rule R213: the signal fits what is sampled of a line. -/
def FitsWindow (hp : Config.HostParams) (g : Geometry) (strictness : Nat) (e : Config.ServiceEntry)
    (d : Config.PixelDescriptor) : Prop :=
  let pixels : ℕ := g.bpl.toNat / d.stride
  if 1 ≤ strictness ∧ 0 < g.offset.toNat then
    (10 ^ 9 * g.offset.toNat / g.rate.toNat : ℚ) ≤ e.offsetNs - hp.winMarginNs ∧
    (e.offsetNs + signalOf e + hp.winMarginNs : ℚ) ≤ 10 ^ 9 * (g.offset.toNat + pixels) / g.rate.toNat
  else (signalOf e + hp.lenMarginNs : ℚ) ≤ 10 ^ 9 * pixels / g.rate.toNat

/-- `skip` of rule R212, in samples; 0 where rule R213 applies. -/
def skippedSamples (hp : Config.HostParams) (g : Geometry) (strictness : Nat) : ℕ :=
  let burst := if g.scan.toNat = 525 then hp.burstEnd525 else hp.burstEnd625
  if 1 ≤ strictness ∧ 0 < g.offset.toNat then
    (max 0 (⌊(burst * g.rate.toNat / 10 ^ 9 : ℚ)⌋ - (g.offset.toNat : ℤ))).toNat
  else 0

/-- Everything but the window that rule R210 asks of an entry: requested, with a signal (rule R217), of the standard of the
geometry (rule R211), attributed to lines, with the row ranges `r0`, `r1` (rule R214). -/
structure Eligible (g : Geometry) (requested : BitVec 32) (strictness : Nat) (e : Config.ServiceEntry)
    (r0 r1 : Nat × Nat) : Prop where
  asked : e.id &&& requested ≠ 0
  signal : ¬ (e.criBits = 0 ∧ e.frcBits = 0 ∧ e.payloadBits = 0)
  standard : (g.scan.toNat = 525 ∧ e.scan525 = true) ∨ (g.scan.toNat = 625 ∧ e.scan625 = true)
  synchronous : g.flags.getLsbD 1 = true
  field0 : fieldRange strictness e.first0 e.last0 g.start0.toNat g.count0.toNat 0 = some r0
  field1 : fieldRange strictness e.first1 e.last1 g.start1.toNat g.count1.toNat g.count0.toNat = some r1

/-- The staging registers as rule R210 writes them for an accepted entry; a value that does not fit its field is cut
(notes/assumptions/15.md). -/
def operandsOf (hp : Config.HostParams) (g : Geometry) (strictness : Nat) (e : Config.ServiceEntry)
    (d : Config.PixelDescriptor) (r0 r1 : Nat × Nat) (old : Staging) : Staging :=
  { old with
    id := e.id
    group := e.group
    offset := BitVec.ofNat 32 (skippedSamples hp g strictness * d.stride)
    criFrc := e.criFrc
    criMask := e.criMask
    bits := BitVec.ofNat 32 (e.criBits.toNat + 256 * e.frcBits.toNat + 65536 * e.modulation.toNat)
    criRate := e.criRate
    bitRate := e.bitRate
    payload := e.payloadBits
    rows0 := BitVec.ofNat 32 (r0.2 % 65536 * 65536 + r0.1 % 65536)
    rows1 := BitVec.ofNat 32 (r1.2 % 65536 * 65536 + r1.1 % 65536) }

/-! ## PARAMS (rule R217) -/

/-- The entries of the catalogue that carry a requested identifier, in table order. -/
def askedEntries (hp : Config.HostParams) (requested : BitVec 32) : List Config.ServiceEntry :=
  hp.table.filter fun e => e.id &&& requested != 0

/-- The scanning standard: the hint, or where it is 0 that of the first requested entry. -/
def standardOf (asked : List Config.ServiceEntry) (scanHint : Nat) : Nat :=
  if scanHint = 0 then (match asked with | [] => 0 | e :: _ => if e.scan525 then 525 else 625) else scanHint

/-- The requested entries of that standard: the others are dropped. -/
def keptEntries (asked : List Config.ServiceEntry) (scan : Nat) : List Config.ServiceEntry :=
  asked.filter fun e => (scan == 525 && e.scan525) || (scan == 625 && e.scan625)

/-- `o` of rule R217. -/
def entryStart (hp : Config.HostParams) (e : Config.ServiceEntry) : Nat := e.offsetNs * hp.refRate / 10 ^ 9

/-- `n` of rule R217, for an entry whose signal lasts `ns` nanoseconds. -/
def entryLength (hp : Config.HostParams) (ns : ℚ) : Nat := ⌊(ns + hp.lenMarginNs) * hp.refRate / 10 ^ 9⌋.toNat

/-- The least of a list of numbers, 0 when there is none. -/
def leastOr0 (l : List Nat) : Nat := l.min?.getD 0

/-- The greatest of a list of numbers, 0 when there is none. -/
def greatestOr0 (l : List Nat) : Nat := l.max?.getD 0

/-- `hi - lo + 1` over the ranges of a field, as 32 bits; 0 when no range uses the field. -/
def linesOf (ranges : List (Nat × Nat)) : BitVec 32 :=
  if ranges = [] then 0
  else BitVec.ofInt 32 ((greatestOr0 (ranges.map (·.2)) : ℤ) - leastOr0 (ranges.map (·.1)) + 1)

/-- The used line ranges of one field. -/
def usedRanges (ranges : List (Nat × Nat)) : List (Nat × Nat) := ranges.filter fun p => p.1 != 0 && p.2 != 0

/-- `WidthMask(reg)` of rule R190. -/
def widthMask (reg : BitVec 7) : BitVec 32 :=
  if reg = 0x00 then 0xFF else if reg = 0x08 then 0x3 else if reg = 0x09 then 0x3FF else 0xFFFFFFFF

end Sys2Proof.Safety
end

