-- ==== Sys2Proof/Certificates/Slice0/Obligations.lean ====
section
/-! DEFINITION. The statements for the provers. Wherever a statement speaks of a next state it says what changes and, by an
equation `t = { s with … }`, that nothing else does; `host := s.host.tail` is the model's own: the transaction is done. -/

open Sys2Proof Sys2Proof.Machine Sys2Proof.Safety

/-! ## Encoding -/

/-- Transaction words of spec/30_encoding.md rule R98, spec/42_config.md rules R220, R221 and spec/95_test_vectors.md K8
decode to the instructions they stand for; an illegal command word stays a write to `CMD`. -/
def Obligations.CommandWordsDecode : Prop :=
  decode 0xFF00000001 = .reset ∧ decode 0xFF00000002 = .jobadd ∧ decode 0xFF00000003 = .rmsvc ∧
  decode 0xFF00000004 = .decode ∧ decode 0xFF00000005 = .slice 0 0 ∧ decode 0xFF00000705 = .slice 7 0 ∧
  decode 0xFF00030005 = .slice 0 3 ∧ decode 0xFFFFFF0305 = .slice 3 0xFFFF ∧
  decode 0x8200000080 = .wr 0x02 128 ∧ decode 0x2400000000 = .rd 0x24 ∧ decode 0x24DEADBEEF = .rd 0x24 ∧
  decode 0xFF00000805 = .wr 0x7F 0x805 ∧ decode 0xFF00000000 = .wr 0x7F 0 ∧ decode 0xFF00010001 = .wr 0x7F 0x10001

/-- Decode and encode agree: every well-formed instruction, with every operand, is read back from its word. -/
def Obligations.DecodeOfEncode : Prop :=
  ∀ i : Instr, i.wellFormed = true → decode (encode i) = i ∧ decodeTableWord 40 (encode i).toNat = some i

/-- Every 40-bit word is a well-formed instruction, and encoding gives the word back; of a read, whose `DATA` is ignored
(rules R90, R91), the upper 8 bits. -/
def Obligations.EncodeOfDecode : Prop :=
  ∀ t : Transaction, (decode t).wellFormed = true ∧
    encode (decode t) = if t.getLsbD 39 then t else t &&& 0xFF00000000

/-- R99: an illegal command word written to `CMD` changes no state except `R_RESULT <- BAD_CMD` (7). -/
def Obligations.IllegalCommandWord : Prop :=
  ∀ (w : BitVec 32) (s : State), IllegalWord w →
    exec (.wr 0x7F w) s = .next { s with result := 7, host := s.host.tail }

/-- R194: a legal command word written to `CMD` does what its command does. -/
def Obligations.CommandThroughCmdRegister : Prop :=
  ∀ s : State, exec (.wr 0x7F 1) s = exec .reset s ∧ exec (.wr 0x7F 2) s = exec .jobadd s ∧
    exec (.wr 0x7F 3) s = exec .rmsvc s ∧ exec (.wr 0x7F 4) s = exec .decode s ∧
    ∀ (a : BitVec 3) (b : BitVec 16),
      exec (.wr 0x7F (BitVec.ofNat 32 (65536 * b.toNat + 256 * a.toNat + 5))) s = exec (.slice a b) s

/-! ## Steps -/

/-- A step runs the decoded instruction: when the host's next action is the transaction word `w`, which decodes to `i`, the
step is `exec i` on the same state, and the host's following action comes next. (How the host's actions are held is the
model's choice, notes/assumptions/1.md.) -/
def Obligations.StepRunsDecodedInstruction : Prop :=
  ∀ (s : State) (w : Transaction) (rest : List HostAction) (i : Instr), s.seq = .idle → s.host = .transaction w :: rest →
    decode w = i → step s = exec i s ∧ ∀ t, step s = .next t → t.host = rest

/-- No run stops: from a state with the sequencer idle every step answers a next state with the sequencer idle and the same
parameters; with no host action the block holds its state. -/
def Obligations.EveryStepGoesOn : Prop :=
  ∀ s : State, s.seq = .idle →
    ∃ t, step s = .next t ∧ t.seq = .idle ∧ t.params = s.params ∧ (s.host = [] → t = s)

/-- R42: the registers after power-on reset, in `State.reset` and after the reset input is asserted in any state. RAW and
OUT keep their contents there (the model's choice, notes/assumptions/8.md). -/
def Obligations.PowerOnResetValues : Prop :=
  PowerOnValues State.reset ∧
  ∀ (s : State) (rest : List HostAction), s.seq = .idle → s.host = .powerOnReset :: rest →
    ∃ t, step s = .next t ∧ PowerOnValues t ∧ t.params = s.params ∧ t.raw = s.raw ∧ t.rawBytes = s.rawBytes ∧
      t.out = s.out ∧ t.host = rest

/-- The host's two ways of storing (spec/00_scope.md rule R11, spec/20_memory.md rules R61, R77), in the form the MODEL
CHOSE for them (DESIGN CHOICE, notes/assumptions/12.md; host actions: 1.md): after `fillRaw`, RAW has exactly the size and the
bytes given; after `fillOut`, OUT has the bytes given from address 0, less those past its size; nothing else changed. -/
def Obligations.FillRawThenRead : Prop :=
  (∀ (s : State) (bytes : List Byte) (rest : List HostAction), s.seq = .idle → s.host = .fillRaw bytes :: rest →
    ∃ t, step s = .next t ∧ (∀ a < bytes.length, t.raw.read a = bytes.getD a 0) ∧
      t = { s with raw := t.raw, rawBytes := bytes.length, host := rest }) ∧
  ∀ (s : State) (bytes : List Byte) (rest : List HostAction), s.seq = .idle → s.out.wf = true →
    s.host = .fillOut bytes :: rest →
    ∃ t, step s = .next t ∧ (∀ a, t.out.read a =
        if a < bytes.length ∧ a < 64 * s.params.outRecords then bytes.getD a 0 else s.out.read a) ∧
      t = { s with out := t.out, host := rest }

/-! ## Register access -/

/-- R191: `RD reg` returns the register's value zero-extended to 32 bits, 0 for `CMD` and reserved numbers, and changes
nothing (the reply is what the host receives). -/
def Obligations.ReadRegister : Prop :=
  ∀ (s : State) (reg : BitVec 7), ∃ v : BitVec 32,
    exec (.rd reg) s = .next { s with reply := some v, host := s.host.tail } ∧
    (reg = 0x00 → v.toNat = s.geom.pixfmt.toNat) ∧ (reg = 0x01 → v = s.geom.rate) ∧ (reg = 0x02 → v = s.geom.bpl) ∧
    (reg = 0x03 → v = s.geom.offset) ∧ (reg = 0x04 → v = s.geom.start0) ∧ (reg = 0x05 → v = s.geom.start1) ∧
    (reg = 0x06 → v = s.geom.count0) ∧ (reg = 0x07 → v = s.geom.count1) ∧
    (reg = 0x08 → v.toNat = s.geom.flags.toNat) ∧ (reg = 0x09 → v.toNat = s.geom.scan.toNat) ∧
    (reg = 0x10 → v = s.staging.id) ∧ (reg = 0x11 → v = s.staging.group) ∧ (reg = 0x12 → v = s.staging.offset) ∧
    (reg = 0x13 → v = s.staging.criFrc) ∧ (reg = 0x14 → v = s.staging.criMask) ∧ (reg = 0x15 → v = s.staging.bits) ∧
    (reg = 0x16 → v = s.staging.criRate) ∧ (reg = 0x17 → v = s.staging.bitRate) ∧
    (reg = 0x18 → v = s.staging.payload) ∧ (reg = 0x19 → v = s.staging.rows0) ∧ (reg = 0x1A → v = s.staging.rows1) ∧
    (reg = 0x1B → v = s.staging.outCap) ∧ (reg = 0x1C → v = s.staging.addr) ∧
    (reg = 0x20 → v.toNat = s.result.toNat) ∧ (reg = 0x21 → v = s.value) ∧ (reg = 0x22 → v = s.services) ∧
    (reg = 0x23 → v.toNat = s.njobs.toNat) ∧ (reg = 0x24 → v.toNat = s.retest.toNat) ∧
    ((0x0A ≤ reg.toNat ∧ reg.toNat ≤ 0x0F) ∨ (0x1D ≤ reg.toNat ∧ reg.toNat ≤ 0x1F) ∨ 0x25 ≤ reg.toNat → v = 0)

/-- R190: a plain register write stores the bits the register has and changes nothing else; a geometry register while no
Job exists, a staging register always; a write to a status register or a reserved number does nothing. -/
def Obligations.WriteRegister : Prop :=
  ∀ (s : State) (v : BitVec 32),
    let done (g : Geometry) := Host.Outcome.next (φ := Fault) (ρ := Refusal) { s with geom := g, host := s.host.tail }
    let staged (a : Staging) := Host.Outcome.next (φ := Fault) (ρ := Refusal) { s with staging := a, host := s.host.tail }
    (s.njobs = 0 →
      exec (.wr 0x00 v) s = done { s.geom with pixfmt := BitVec.ofNat 8 v.toNat } ∧
      exec (.wr 0x01 v) s = done { s.geom with rate := v } ∧ exec (.wr 0x02 v) s = done { s.geom with bpl := v } ∧
      exec (.wr 0x03 v) s = done { s.geom with offset := v } ∧ exec (.wr 0x04 v) s = done { s.geom with start0 := v } ∧
      exec (.wr 0x05 v) s = done { s.geom with start1 := v } ∧ exec (.wr 0x06 v) s = done { s.geom with count0 := v } ∧
      exec (.wr 0x07 v) s = done { s.geom with count1 := v } ∧
      exec (.wr 0x08 v) s = done { s.geom with flags := BitVec.ofNat 2 v.toNat } ∧
      exec (.wr 0x09 v) s = done { s.geom with scan := BitVec.ofNat 10 v.toNat }) ∧
    exec (.wr 0x10 v) s = staged { s.staging with id := v } ∧ exec (.wr 0x11 v) s = staged { s.staging with group := v } ∧
    exec (.wr 0x12 v) s = staged { s.staging with offset := v } ∧
    exec (.wr 0x13 v) s = staged { s.staging with criFrc := v } ∧
    exec (.wr 0x14 v) s = staged { s.staging with criMask := v } ∧
    exec (.wr 0x15 v) s = staged { s.staging with bits := v } ∧
    exec (.wr 0x16 v) s = staged { s.staging with criRate := v } ∧
    exec (.wr 0x17 v) s = staged { s.staging with bitRate := v } ∧
    exec (.wr 0x18 v) s = staged { s.staging with payload := v } ∧
    exec (.wr 0x19 v) s = staged { s.staging with rows0 := v } ∧
    exec (.wr 0x1A v) s = staged { s.staging with rows1 := v } ∧
    exec (.wr 0x1B v) s = staged { s.staging with outCap := v } ∧
    exec (.wr 0x1C v) s = staged { s.staging with addr := v } ∧
    ∀ reg : BitVec 7, (0x0A ≤ reg.toNat ∧ reg.toNat ≤ 0x0F) ∨ (0x1D ≤ reg.toNat ∧ reg.toNat ≤ 0x7E) →
      exec (.wr reg v) s = .next { s with host := s.host.tail }

/-- R278: a geometry write while a Job exists stores nothing and sets `R_RESULT <- GEOM_LOCKED` (6), `R_VALUE` unchanged;
it is the only code a plain register write can raise. -/
def Obligations.GeometryWriteLocked : Prop :=
  ∀ (s : State) (reg : BitVec 7) (v : BitVec 32),
    (reg.toNat ≤ 0x09 → s.njobs ≠ 0 → exec (.wr reg v) s = .next { s with result := 6, host := s.host.tail }) ∧
    (reg ≠ 0x7F → ∃ t, exec (.wr reg v) s = .next t ∧ (t.result = s.result ∨ (t.result = 6 ∧ s.njobs ≠ 0)))

/-- A read after a write: every writable register returns what was written, less the bits it does not have. -/
def Obligations.ReadAfterWrite : Prop :=
  ∀ (s : State) (reg : BitVec 7) (v : BitVec 32),
    reg.toNat ≤ 0x09 ∧ s.njobs = 0 ∨ 0x10 ≤ reg.toNat ∧ reg.toNat ≤ 0x1C →
    ∃ t u, exec (.wr reg v) s = .next t ∧ exec (.rd reg) t = .next u ∧ u.reply = some (v &&& widthMask reg)

/-! ## RESET, JOBADD, RMSVC -/

/-- R193: `RESET` clears Jobs and candidate slots, ends `OK` with value 0, and keeps everything else. -/
def Obligations.ResetCommand : Prop :=
  ∀ s : State, ∃ t, exec .reset s = .next t ∧ t.jobs.length = 8 ∧ (∀ j < 8, t.job j = Job.zero) ∧
    t.pat.length = s.params.maxLines ∧ (∀ r < s.params.maxLines, ∀ i < 8, slotAt (t.row r) i = 0) ∧
    t = { s with njobs := 0, services := 0, jobs := t.jobs, pat := t.pat, result := 0, value := 0, host := s.host.tail }

/-- The failures of JOBADD, in the order of R281: `CFG_ERROR` (4), `ALLOC_ERROR` (5), `REJ_CAPACITY` (2), `REJ_NOSLOT` (3);
each writes `R_RESULT` and nothing else (R276). -/
def Obligations.JobaddFailures : Prop :=
  ∀ s : State, ShapeOk s →
    (¬ JobaddConditions s → exec .jobadd s = .next { s with result := 4, host := s.host.tail }) ∧
    (JobaddConditions s → s.params.maxLines < frameRows s →
      exec .jobadd s = .next { s with result := 5, host := s.host.tail }) ∧
    (JobaddConditions s → frameRows s ≤ s.params.maxLines → (∀ i, ¬ Shares s i) → s.njobs = 8 →
      exec .jobadd s = .next { s with result := 2, host := s.host.tail }) ∧
    (JobaddConditions s → frameRows s ≤ s.params.maxLines → ∀ j, Selected s j → (∃ r, named s r ∧ roomOn s j r ≤ 1) →
      exec .jobadd s = .next { s with result := 3, host := s.host.tail })

/-- JOBADD writes the Job it selects (R105, R206, R207): inputs copied, derived fields computed, `id` the union with what a
shared Job held; `NJOBS`, `SERVICES`, `R_RESULT`, `R_VALUE`; PAT; and nothing else. -/
def Obligations.JobaddCommitsJob : Prop :=
  ∀ (s : State) (j : Nat) (d : Config.PixelDescriptor), ShapeOk s → JobaddConditions s →
    frameRows s ≤ s.params.maxLines → Selected s j → (∀ r, named s r → 2 ≤ roomOn s j r) →
    descriptorOf s.geom.pixfmt = some d →
    ∃ t, exec .jobadd s = .next t ∧
      (t.job j).id = (if j = s.njobs.toNat then s.staging.id else (s.job j).id ||| s.staging.id) ∧
      (t.job j).offset = s.staging.offset ∧ (t.job j).criRate = s.staging.criRate ∧
      (t.job j).bitRate = s.staging.bitRate ∧ (t.job j).payloadBits.toNat = s.staging.payload.toNat ∧
      (t.job j).criBits.toNat = criBits s ∧ (t.job j).frcBits.toNat = frcBits s ∧
      (t.job j).modulation.toNat = s.staging.bits.toNat / 65536 % 4 ∧
      (t.job j).criMask.toNat = s.staging.criMask.toNat % 2 ^ criBits s ∧
      (t.job j).cri.toNat = s.staging.criFrc.toNat / 2 ^ frcBits s &&& (t.job j).criMask.toNat ∧
      (t.job j).frc.toNat = s.staging.criFrc.toNat % 2 ^ frcBits s ∧
      (t.job j).thresh = 53760 ∧ JobConfigured s.geom (t.job j) d ∧
      (∀ m, m ≠ j → t.job m = s.job m) ∧ t.jobs.length = 8 ∧
      t = { s with
        jobs := t.jobs, pat := t.pat, host := s.host.tail
        njobs := if j = s.njobs.toNat then s.njobs + 1 else s.njobs
        services := s.services ||| s.staging.id
        result := 0, value := BitVec.ofNat 32 j }

/-- R205: JOBADD reserves one slot on every row it names: the slot that already holds the Job, else the least non-Job slot;
slot 7 then holds -128 unless it holds a Job; rows it does not name keep their slots. -/
def Obligations.JobaddReservesSlots : Prop :=
  ∀ (s : State) (j : Nat), ShapeOk s → JobaddConditions s → frameRows s ≤ s.params.maxLines → Selected s j →
    (∀ r, named s r → 2 ≤ roomOn s j r) →
    ∃ t, exec .jobadd s = .next t ∧ t.pat.length = s.pat.length ∧ ∀ r < s.params.maxLines,
      (¬ named s r → t.row r = s.row r) ∧
      (named s r → (∃ i < 8, slotAt (s.row r) i = BitVec.ofNat 8 (j + 1)) → ∀ i < 8, slotAt (t.row r) i =
        if i = 7 ∧ isJobSlot (slotAt (s.row r) 7) = false then 0x80 else slotAt (s.row r) i) ∧
      (named s r → (∀ i < 8, slotAt (s.row r) i ≠ BitVec.ofNat 8 (j + 1)) → ∀ p < 8,
        isJobSlot (slotAt (s.row r) p) = false → (∀ q < p, isJobSlot (slotAt (s.row r) q) = true) →
        ∀ i < 8, slotAt (t.row r) i =
          if i = p then BitVec.ofNat 8 (j + 1)
          else if i = 7 ∧ isJobSlot (slotAt (s.row r) 7) = false then 0x80 else slotAt (s.row r) i)

/-- RMSVC (R208): the Jobs that carry none of the requested identifiers stay, in order, every field kept; the rest of the
file is cleared; `SERVICES` and `R_VALUE` are the union of the identifiers that stay. -/
def Obligations.RmsvcKeepsUnrequestedJobs : Prop :=
  ∀ s : State, ShapeOk s → (∀ j, s.njobs.toNat ≤ j → s.job j = Job.zero) →
    let kept := (s.jobs.take s.njobs.toNat).filter fun job => job.id &&& s.staging.id == 0
    ∃ t, exec .rmsvc s = .next t ∧ t.jobs = kept ++ List.replicate (8 - kept.length) Job.zero ∧
      t.services = (kept.map (·.id)).foldl (· ||| ·) 0 ∧
      t = { s with
        jobs := t.jobs, pat := t.pat, services := t.services, host := s.host.tail
        njobs := BitVec.ofNat 4 kept.length
        result := 0, value := t.services }

/-- R209: when RMSVC removes Job `i` alone, every row loses its reference, keeps the order of the rest, counts the references
above it down by one, and is padded with Blanks. When it removes several Jobs, a row keeps, in order, its Blanks, its
countdowns and its references to the Jobs that stay, each counted down by the removed Jobs below it, padded with Blanks; when
it removes none, PAT is as before. -/
def Obligations.RmsvcCompactsRows : Prop :=
  (∀ s : State, ShapeOk s →
    ∃ t, exec .rmsvc s = .next t ∧ t.pat.length = s.pat.length ∧
      (∀ r < s.params.maxLines, t.row r =
        remainingSlots s (s.row r) ++ List.replicate (8 - (remainingSlots s (s.row r)).length) 0) ∧
      ((∀ j < s.njobs.toNat, (s.job j).id &&& s.staging.id = 0) → t.pat = s.pat)) ∧
  ∀ (s : State) (i : Nat), ShapeOk s → i < s.njobs.toNat →
    (∀ j < s.njobs.toNat, (s.job j).id &&& s.staging.id ≠ 0 ↔ j = i) →
    ∃ t, exec .rmsvc s = .next t ∧ t.pat.length = s.pat.length ∧ ∀ r < s.params.maxLines,
      let rest := ((s.row r).filter fun v => v != BitVec.ofNat 8 (i + 1)).map fun v =>
        if (i : Int) + 1 < v.toInt then v - 1 else v
      t.row r = rest ++ List.replicate (8 - rest.length) 0

/-- RMSVC purges and renumbers references faithfully: after it, every row refers, in the same order, to exactly the Jobs it
referred to before, less the removed ones. -/
def Obligations.RmsvcReferencesFollowJobs : Prop :=
  ∀ s : State, PatOk s →
    ∃ t, exec .rmsvc s = .next t ∧ ∀ r < s.params.maxLines,
      referenced t r = (referenced s r).filter fun job => job.id &&& s.staging.id == 0

/-! ## SLICE: samples and arithmetic -/

/-- R122 with R66: a unit is one byte, or two in the format's byte order, at any alignment; a unit not wholly inside RAW is
the fault. R124: sample `k` is the channel of the unit at `base + skip + k × stride`. R72, R151: a SLICE reads RAW in the
format of its Job, from `base + JOB.skip`, and in DECODE the base is `RowBase(r) + JOB.offset`. -/
def Obligations.UnitBytes : Prop :=
  (∀ (src : SampleSource) (k : Nat),
    sample src k = (readUnit src (src.start + k * src.desc.stride)).map (channel src.desc)) ∧
  (∀ (s : State) (job : Job) (d : Config.PixelDescriptor) (base : Nat), descriptorOf job.pf = some d →
    sampleSource s job base =
      { raw := s.raw, rawBytes := s.rawBytes, desc := d, start := base + job.skip.toNat } ∧
    (job.skip.toNat = d.skip → ∀ k, sample (sampleSource s job base) k =
      (readUnit { raw := s.raw, rawBytes := s.rawBytes, desc := d, start := 0 } (base + d.skip + k * d.stride)).map
        (channel d))) ∧
  (∀ (s : State) (r j : Nat) (d : Config.PixelDescriptor), descriptorOf (s.job j).pf = some d →
    let first := rowBase s.geom r + (s.job j).offset.toNat + (s.job j).skip.toNat
    sliceOn s r j = sliceJob { raw := s.raw, rawBytes := s.rawBytes, desc := d, start := first } (s.job j)) ∧
  ∀ (src : SampleSource) (a : Nat),
    (src.desc.wide = false → a + 1 ≤ src.rawBytes → readUnit src a = some (src.raw.read a).toNat) ∧
    (src.desc.wide = true → src.desc.be = true → a + 2 ≤ src.rawBytes →
      readUnit src a = some ((src.raw.read a).toNat <<< 8 ||| (src.raw.read (a + 1)).toNat)) ∧
    (src.desc.wide = true → src.desc.be = false → a + 2 ≤ src.rawBytes →
      readUnit src a = some ((src.raw.read (a + 1)).toNat <<< 8 ||| (src.raw.read a).toNat)) ∧
    (src.rawBytes < a + src.desc.unitBytes → readUnit src a = none)

/-- R123: a sample is an 8-bit value, the channel's bits left-aligned. -/
def Obligations.ChannelLeftAligned : Prop :=
  ∀ (code : BitVec 8) (d : Config.PixelDescriptor), descriptorOf code = some d → ∀ u : Nat,
    channel d u ≤ 255 ∧ channel d u % 2 ^ (8 - d.width) = 0 ∧
    channel d u / 2 ^ (8 - d.width) = u / 2 ^ d.shift % 2 ^ d.width

/-- R125 to R131: the descriptor of every pixel-format code, field by field as the spec's table gives it; R132: no other
code has one. -/
def Obligations.DescriptorsOfCodes : Prop :=
  ∀ (code : BitVec 8) (stride skip unit be shift width : Nat),
    (code.toNat, stride, skip, unit, be, shift, width) ∈ descriptorTable ↔
      ∃ d, descriptorOf code = some d ∧ d.stride = stride ∧ d.skip = skip ∧ d.unitBytes = unit ∧ d.be.toNat = be ∧
        d.shift = shift ∧ d.width = width

/-- R133: the four ticks interpolate between two samples, `t(n) = 4 r0 + n (r1 - r0)` in 0..1020; the level at position `i`
is `256 s0 + (s1 - s0) f`, exact, in 0..65280, and needs both neighbours. -/
def Obligations.Interpolation : Prop :=
  (∀ r0 r1 n : Nat, n ≤ 3 → (tickSum r0 r1 n : ℤ) = 4 * r0 + n * ((r1 : ℤ) - r0) ∧
    tickLevel r0 r1 n = (tickSum r0 r1 n + 2) / 4 ∧ (r0 ≤ 255 → r1 ≤ 255 → tickSum r0 r1 n ≤ 1020)) ∧
  ∀ (src : SampleSource) (k i : Nat),
    (∀ s0 s1, sample src (k + i / 256) = some s0 → sample src (k + i / 256 + 1) = some s1 →
      ∃ l : Nat, level256 src k i = some l ∧ (l : ℤ) = 256 * s0 + ((s1 : ℤ) - s0) * (i % 256 : ℕ) ∧
        (s0 ≤ 255 → s1 ≤ 255 → l ≤ 65280)) ∧
    (sample src (k + i / 256) = none ∨ sample src (k + i / 256 + 1) = none → level256 src k i = none)

/-- R168: inside its bounds the threshold's update needs no reduction, and stays inside them. -/
def Obligations.ThresholdUpdateStaysInBounds : Prop :=
  ∀ thresh r0 r1 : Nat, thresh < 195585 → r0 ≤ 255 → r1 ≤ 255 →
    (trackThreshold thresh (thresh / 512) r0 r1 : ℤ) =
      thresh + ((r0 : ℤ) - (thresh / 512 : ℕ)) * |(r1 : ℤ) - r0| ∧
    trackThreshold thresh (thresh / 512) r0 r1 < 195585

/-- R156, R157: a transition snaps the counter and emits nothing; otherwise the counter advances, and on an overflow one bit
is shifted into `c` and compared under the mask; with `cri_rate ≤ os_rate` the counter keeps the range of R23. -/
def Obligations.PllTick : Prop :=
  ∀ (job : Job) (b : Bool) (p : Pll),
    (b ≠ p.b1 → pllTick job b p = ({ p with cl := job.osRate.toNat / 2, b1 := b }, false)) ∧
    (b = p.b1 → p.cl + job.criRate.toNat < job.osRate.toNat →
      pllTick job b p = ({ p with cl := p.cl + job.criRate.toNat, b1 := b }, false)) ∧
    (b = p.b1 → job.osRate.toNat ≤ p.cl + job.criRate.toNat →
      (pllTick job b p).1.cl = p.cl + job.criRate.toNat - job.osRate.toNat ∧
      (pllTick job b p).1.c = (2 * p.c + b.toNat) % 2 ^ 32 ∧ (pllTick job b p).1.b1 = b ∧
      ((pllTick job b p).2 = true ↔ (2 * p.c + b.toNat) % 2 ^ 32 &&& job.criMask.toNat = job.cri.toNat)) ∧
    (1 ≤ job.osRate.toNat → job.criRate.toNat ≤ job.osRate.toNat →
      p.cl < job.osRate.toNat + job.criRate.toNat →
      (pllTick job b p).1.cl < job.osRate.toNat + job.criRate.toNat)

/-- R153 to R157, one sample of the search: the threshold in force is the tracked one without its fraction; it is updated
once, exactly, from the two neighbouring samples, modulo 2^32; the four ticks are classified against the old threshold (a
level equal to it is 1) and clocked one after the other; the search ends at the first match, else goes on at the next sample.
A sample that cannot be read, or whose next one cannot, is the fault (R66, R166); with no sample left the search is exhausted. -/
def Obligations.SearchOneSample : Prop :=
  (∀ (src : SampleSource) (job : Job) (left k thresh : Nat) (p : Pll),
    search src job 0 k thresh p = .exhausted ∧
    (sample src k = none ∨ sample src (k + 1) = none → search src job (left + 1) k thresh p = .overrun)) ∧
  ∀ (src : SampleSource) (job : Job) (left k thresh r0 r1 : Nat) (p : Pll),
    sample src k = some r0 → sample src (k + 1) = some r1 →
    let tr := thresh / 512
    let tracked := (((thresh : ℤ) + ((r0 : ℤ) - (tr : ℕ)) * |(r1 : ℤ) - r0|) % 2 ^ 32).toNat
    let level (n : ℕ) : Bool := decide ((tr : ℤ) ≤ (4 * r0 + n * ((r1 : ℤ) - r0) + 2) / 4)
    let q0 := pllTick job (level 0) p
    let q1 := pllTick job (level 1) q0.1
    let q2 := pllTick job (level 2) q1.1
    let q3 := pllTick job (level 3) q2.1
    search src job (left + 1) k thresh p =
      if q0.2 || q1.2 || q2.2 || q3.2 then .found k tr tracked else search src job left (k + 1) tracked q3.1

/-- R152, R158 to R160: how a SLICE ends. The search starts at sample 0 with the Job's threshold and with `cl`, `c` and `b1`
at 0. A bit is 1 when the level reaches the threshold of the sample `k` where the search ended. A match means that every bit
of the framing code reads as configured, first bit the most significant, and that the payload bits are those read at the
following positions; and when they read so, the SLICE matches. With a wrong framing bit and the framing code readable it is
`NoMatch`, as it is when the search finds nothing; a search, a framing bit, or after a right framing code a payload bit that
leaves RAW is the fault. -/
def Obligations.MatchMeansFramed : Prop :=
  Pll.start = { cl := 0, c := 0, b1 := false } ∧
  (∀ (src : SampleSource) (k tr i : Nat), bitAt src k tr i = (level256 src k i).map fun l => decide (256 * tr ≤ l)) ∧
  (∀ (src : SampleSource) (job : Job),
    let found := search src job job.criSamples.toNat 0 job.thresh.toNat Pll.start
    (found = .exhausted → sliceJob src job = .noMatch) ∧ (found = .overrun → sliceJob src job = .overrun) ∧
    ∀ k tr thresh, found = .found k tr thresh →
      let bit (m : Nat) := bitAt src k tr (job.phaseShift.toNat + m * job.step.toNat)
      let framing (m : Nat) := job.frc.toNat.testBit (job.frcBits.toNat - 1 - m)
      ((∃ m < job.frcBits.toNat, bit m = none) → sliceJob src job = .overrun) ∧
      ((∀ m < job.frcBits.toNat, bit m ≠ none) →
        (2 ^ job.frcBits.toNat ≤ job.frc.toNat ∨ ∃ m < job.frcBits.toNat, bit m = some (!framing m)) →
        sliceJob src job = .noMatch) ∧
      (job.frc.toNat < 2 ^ job.frcBits.toNat → (∀ m < job.frcBits.toNat, bit m = some (framing m)) →
        ((∃ n < job.payloadBits.toNat, bit (job.frcBits.toNat + n) = none) → sliceJob src job = .overrun) ∧
        ∀ bits : List Bool, bits.length = job.payloadBits.toNat →
          (∀ n < job.payloadBits.toNat, bit (job.frcBits.toNat + n) = some (bits.getD n false)) →
          sliceJob src job = .matched bits thresh)) ∧
  ∀ (src : SampleSource) (job : Job) (bits : List Bool) (thresh : Nat), sliceJob src job = .matched bits thresh →
    ∃ k tr, search src job job.criSamples.toNat 0 job.thresh.toNat Pll.start = .found k tr thresh ∧
      bits.length = job.payloadBits.toNat ∧ job.frc.toNat < 2 ^ job.frcBits.toNat ∧
      (∀ m < job.frcBits.toNat, bitAt src k tr (job.phaseShift.toNat + m * job.step.toNat) =
        some (job.frc.toNat.testBit (job.frcBits.toNat - 1 - m))) ∧
      (∀ n < job.payloadBits.toNat,
        bitAt src k tr (job.phaseShift.toNat + (job.frcBits.toNat + n) * job.step.toNat) = some (bits.getD n false))

/-- R172 (c): a constant line never moves the threshold, and one below the threshold matches no Job with a non-zero `cri`. -/
def Obligations.ConstantLine : Prop :=
  ∀ (src : SampleSource) (job : Job) (v : Nat), (∀ k ≤ job.criSamples.toNat, sample src k = some v) →
    (∀ bits thresh, sliceJob src job = .matched bits thresh → thresh = job.thresh.toNat) ∧
    (v < job.thresh.toNat / 512 → job.cri ≠ 0 → sliceJob src job = .noMatch)

/-- R161 to R164: the payload has `ceil(P / 8)` bytes; received bit `8q + m` is bit `m` of byte `q` in the LSB-first modes 1
and 3, bit `7 - m` in the MSB-first modes 0 and 2. The other bits of a final byte that is not full are undefined (`pad`). -/
def Obligations.PackBits : Prop :=
  ∀ (endian : BitVec 2) (pad : Byte) (bits : List Bool),
    (pack endian pad bits).length = (bits.length + 7) / 8 ∧
    ∀ q m, m < 8 → 8 * q + m < bits.length →
      (endian = 1 ∨ endian = 3 →
        ((pack endian pad bits).getD q 0).getLsbD m = bits.getD (8 * q + m) false) ∧
      (endian = 0 ∨ endian = 2 →
        ((pack endian pad bits).getD q 0).getLsbD (7 - m) = bits.getD (8 * q + m) false)

/-! ## The SLICE command -/

/-- R279: `BAD_CMD` (7) for an illegal command word, before anything else; for a legal SLICE `BAD_JOB` (9) when the Job does
not exist, then `BAD_CMD` when the record is not in OUT; no other state changes. -/
def Obligations.SliceRefusals : Prop :=
  (∀ (w : BitVec 32) (s : State), IllegalWord w →
    exec (.wr 0x7F w) s = .next { s with result := 7, host := s.host.tail }) ∧
  ∀ (a : BitVec 3) (b : BitVec 16) (s : State),
    (s.njobs.toNat ≤ a.toNat → exec (.slice a b) s = .next { s with result := 9, host := s.host.tail }) ∧
    (a.toNat < s.njobs.toNat → s.params.outRecords ≤ b.toNat →
      exec (.slice a b) s = .next { s with result := 7, host := s.host.tail })

/-- R170 with R165, a match: the payload bytes go to `data` of record `b`, `R_RESULT` is `OK`, `R_VALUE` their number, the
Job keeps the tracked threshold; every other byte of OUT and everything else is as before, less the working registers. The
undefined bits of the final byte are those of some `pad`. -/
def Obligations.SliceMatchStoresPayload : Prop :=
  ∀ (s : State) (a : BitVec 3) (b : BitVec 16) (bits : List Bool) (thresh : Nat), s.jobs.length = 8 → s.out.wf = true →
    a.toNat < s.njobs.toNat → b.toNat < s.params.outRecords →
    sliceJob (sampleSource s (s.job a.toNat) s.staging.addr.toNat) (s.job a.toNat) = .matched bits thresh →
    let len := ((s.job a.toNat).payloadBits.toNat + 7) / 8
    ∃ t pad, exec (.slice a b) s = .next t ∧
      (∀ q < len, t.out.read (64 * b.toNat + 8 + q) = (pack (s.job a.toNat).endian pad bits).getD q 0) ∧
      (∀ x, x < 64 * b.toNat + 8 ∨ 64 * b.toNat + 8 + len ≤ x → t.out.read x = s.out.read x) ∧
      t.job a.toNat = { s.job a.toNat with thresh := BitVec.ofNat 32 thresh } ∧
      (∀ m, m ≠ a.toNat → t.job m = s.job m) ∧ t.jobs.length = 8 ∧
      t = { s with
        out := t.out, jobs := t.jobs, work := t.work, freeDraws := t.freeDraws, host := s.host.tail
        result := 0, value := BitVec.ofNat 32 len }

/-- R159, R272, R277: a SLICE that finds no match, or leaves RAW, leaves the Job and OUT exactly as they were; the result is
`NO_MATCH` (1) or `RAW_OVERRUN` (8), the value 0. -/
def Obligations.SliceFailureRestoresJob : Prop :=
  ∀ (s : State) (a : BitVec 3) (b : BitVec 16), a.toNat < s.njobs.toNat → b.toNat < s.params.outRecords →
    (sliceJob (sampleSource s (s.job a.toNat) s.staging.addr.toNat) (s.job a.toNat) = .noMatch →
      ∃ t, exec (.slice a b) s = .next t ∧
        t = { s with result := 1, value := 0, work := t.work, freeDraws := t.freeDraws, host := s.host.tail }) ∧
    (sliceJob (sampleSource s (s.job a.toNat) s.staging.addr.toNat) (s.job a.toNat) = .overrun →
      ∃ t, exec (.slice a b) s = .next t ∧
        t = { s with result := 8, value := 0, work := t.work, freeDraws := t.freeDraws, host := s.host.tail })

/-- R172 (a): with `cri_samples = 0` a SLICE answers `NO_MATCH` whatever RAW is, empty RAW included. -/
def Obligations.SliceOfEmptySearch : Prop :=
  ∀ (s : State) (a : BitVec 3) (b : BitVec 16) (raw : Memory) (rawBytes : Nat), a.toNat < s.njobs.toNat →
    b.toNat < s.params.outRecords → (s.job a.toNat).criSamples = 0 →
    ∃ t, exec (.slice a b) { s with raw := raw, rawBytes := rawBytes } = .next t ∧
      t = { s with raw := raw, rawBytes := rawBytes, result := 1, value := 0, work := t.work, freeDraws := t.freeDraws,
                   host := s.host.tail }

/-- R174: a SLICE whose highest sample index lies inside RAW completes: it ends `OK` or `NO_MATCH`. -/
def Obligations.SliceStaysInsideRaw : Prop :=
  ∀ (s : State) (a : BitVec 3) (b : BitVec 16) (d : Config.PixelDescriptor), a.toNat < s.njobs.toNat →
    b.toNat < s.params.outRecords → descriptorOf (s.job a.toNat).pf = some d →
    let job := s.job a.toNat
    let last := max job.criSamples.toNat (job.criSamples.toNat +
      (job.phaseShift.toNat + (job.frcBits.toNat + job.payloadBits.toNat - 1) * job.step.toNat) / 256)
    s.staging.addr.toNat + job.skip.toNat + last * d.stride + d.unitBytes ≤ s.rawBytes →
    ∃ t, exec (.slice a b) s = .next t ∧ (t.result = 0 ∨ t.result = 1)

/-! ## DECODE: one row -/

/-- R70, R71: where a row begins: row after row in a sequential frame, field 0 on the even and field 1 on the odd line
positions in an interlaced one; and the byte ranges of two rows of a frame never overlap. -/
def Obligations.RowsDoNotOverlap : Prop :=
  (∀ (g : Geometry) (r : Nat),
    (g.flags.getLsbD 0 = false → rowBase g r = r * g.bpl.toNat) ∧
    (g.flags.getLsbD 0 = true → r < g.count0.toNat → rowBase g r = 2 * r * g.bpl.toNat) ∧
    (g.flags.getLsbD 0 = true → g.count0.toNat ≤ r →
      rowBase g r = g.bpl.toNat + 2 * (r - g.count0.toNat) * g.bpl.toNat)) ∧
  ∀ (g : Geometry) (r q : Nat), r ≠ q → r < rowCount g → q < rowCount g →
    rowBase g r + g.bpl.toNat ≤ rowBase g q ∨ rowBase g q + g.bpl.toNat ≤ rowBase g r

/-- R235 to R237, a hit: the slots in front of slot `p` miss (no match, a match that fails `CHECK`, or a dangling reference),
the Job of slot `p` matches and passes `CHECK`. Record `n` gets the identifiers, the line number and the payload, and no other
byte of OUT changes; the row gets its dwell mark and the Job is swapped to the front; every Job that matched keeps the
tracked threshold, the others are as before. -/
def Obligations.RowHit : Prop :=
  ∀ (cap r n p j : Nat) (s : State) (bits : List Bool) (thresh : Nat), ShapeOk s → s.out.wf = true →
    r < s.params.maxLines → p < 8 → n ≠ cap → Reached s r p → Candidate s r p j →
    sliceOn s r j = .matched bits thresh →
    (∀ pad, checkPasses s.params (s.job j).id (pack (s.job j).endian pad bits) = true) →
    let len := ((s.job j).payloadBits.toNat + 7) / 8
    ∃ t pad, walkSlots cap r 8 0 n s = (.ended, n + 1, t) ∧
      (∀ i < 8, slotAt (t.row r) i =
        if i = 0 then slotAt (s.row r) p else if i = p then slotAt (s.row r) 0
        else if i = 7 then 0x80 else slotAt (s.row r) i) ∧
      (∀ q, q ≠ r → t.row q = s.row q) ∧
      (∀ q < 4, (t.out.read (64 * n + q)).toNat = (s.job j).id.toNat / 256 ^ q % 256) ∧
      (∀ q < 4, (t.out.read (64 * n + 4 + q)).toNat = lineOf s r / 256 ^ q % 256) ∧
      (∀ q < len, t.out.read (64 * n + 8 + q) = (pack (s.job j).endian pad bits).getD q 0) ∧
      (∀ x, x < 64 * n ∨ 64 * n + 8 + len ≤ x → t.out.read x = s.out.read x) ∧
      t.job j = { s.job j with thresh := BitVec.ofNat 32 thresh } ∧ JobsTracked s t r (p + 1) ∧
      t = { s with pat := t.pat, out := t.out, jobs := t.jobs, work := t.work, freeDraws := t.freeDraws }

/-- R238, R239, R243, R244, all Jobs of a row miss (no match, a match that fails `CHECK`, or a dangling reference, the last
also with a full output): in the dwell window the countdown steps and no other slot moves; after it the non-Job slot `m` and
the front are swapped, the front becoming a Blank. There is no record; a threshold changes only where `CHECK` failed. -/
def Obligations.RowMiss : Prop :=
  ∀ (cap r n m : Nat) (s : State), ShapeOk s → r < s.params.maxLines → 1 ≤ m → m ≤ 7 →
    (n = cap → ∀ i < m, Dangling s r i) → Reached s r m → isJobSlot (slotAt (s.row r) m) = false →
    ∃ t, walkSlots cap r 8 0 n s = (.ended, n, t) ∧
      (∀ i < 8, slotAt (t.row r) i =
        if (slotAt (s.row r) 7).toInt < 0 then (if i = 7 then slotAt (s.row r) 7 + 1 else slotAt (s.row r) i)
        else if i = 0 then 0 else if i = m then slotAt (s.row r) 0 else slotAt (s.row r) i) ∧
      (∀ q, q ≠ r → t.row q = s.row q) ∧ JobsTracked s t r m ∧
      t = { s with pat := t.pat, jobs := t.jobs, work := t.work, freeDraws := t.freeDraws }

/-- R241, R242, a front that is no Job: the row is skipped, no Job of it tested; when `RETEST = 0` its slots rotate one place
toward the front. -/
def Obligations.RowFrontBlank : Prop :=
  ∀ (cap r n : Nat) (s : State), ShapeOk s → r < s.params.maxLines → isJobSlot (slotAt (s.row r) 0) = false →
    ∃ t, walkSlots cap r 8 0 n s = (.ended, n, t) ∧
      (∀ i < 8, slotAt (t.row r) i =
        if s.retest = 0 then (if i = 7 then slotAt (s.row r) 0 else slotAt (s.row r) (i + 1)) else slotAt (s.row r) i) ∧
      (∀ q, q ≠ r → t.row q = s.row q) ∧ t = { s with pat := t.pat }

/-- R245, R246, R253: dangling references are passed over without a test; a Job about to be tested with a full output stops
the whole walk with nothing touched; a row of dangling references alone ends with nothing written. A row of 8 Job slots that
all miss ends with no record and no slot changed. R277: when a SLICE of the row leaves RAW, behind slots that miss, the walk
ends there with the fault: no slot of PAT and no byte of OUT is written, the record count stands, and the Job is as before. -/
def Obligations.RowStopsUntouched : Prop :=
  (∀ (cap r n p j : Nat) (s : State), ShapeOk s → p < 8 → n ≠ cap → Reached s r p → Candidate s r p j →
    sliceOn s r j = .overrun →
    ∃ t, walkSlots cap r 8 0 n s = (.overrun, n, t) ∧ t.job j = s.job j ∧ JobsTracked s t r p ∧
      t = { s with jobs := t.jobs, work := t.work, freeDraws := t.freeDraws }) ∧
  (∀ (cap r n : Nat) (s : State), ShapeOk s → (n = cap → ∀ i < 8, Dangling s r i) → Reached s r 8 →
    ∃ t, walkSlots cap r 8 0 n s = (.ended, n, t) ∧ JobsTracked s t r 8 ∧
      t = { s with jobs := t.jobs, work := t.work, freeDraws := t.freeDraws }) ∧
  ∀ (cap r n i : Nat) (s : State), (∀ q < i, Dangling s r q) →
    (i < 8 → isJobSlot (slotAt (s.row r) i) = true → (slotAt (s.row r) i).toNat ≤ s.njobs.toNat →
      walkSlots n r 8 0 n s = (.full, n, s)) ∧
    (i = 8 → walkSlots cap r 8 0 n s = (.ended, n, s))

/-! ## DECODE: the whole command -/

/-- R232, R246, R247, R277: DECODE walks the rows in ascending order, each from where the row before left the machine and the
record count. When all rows end, or at the first row that stops on a full output, the command ends `OK` with the count and
`RETEST` advanced; at the first row that leaves RAW it ends `RAW_OVERRUN` with the count so far, `RETEST` as it was. -/
def Obligations.DecodeWalksRowsInOrder : Prop :=
  ∀ (s : State) (m : Nat) (at_ : Nat → State) (count : Nat → Nat), frameRows s ≤ s.params.maxLines → m ≤ frameRows s →
    let cap := min s.staging.outCap.toNat s.params.outRecords
    at_ 0 = s → count 0 = 0 →
    (∀ r < m, walkSlots cap r 8 0 (count r) (at_ r) = (.ended, count (r + 1), at_ (r + 1))) →
    (m = frameRows s → exec .decode s = .next { at_ m with
      retest := s.retest + 1, result := 0, value := BitVec.ofNat 32 (count m), host := s.host.tail }) ∧
    (∀ n t, m < frameRows s → walkSlots cap m 8 0 (count m) (at_ m) = (.full, n, t) →
      exec .decode s = .next { t with
        retest := s.retest + 1, result := 0, value := BitVec.ofNat 32 n, host := s.host.tail }) ∧
    (∀ n t, m < frameRows s → walkSlots cap m 8 0 (count m) (at_ m) = (.overrun, n, t) →
      exec .decode s = .next { t with
        result := 8, value := BitVec.ofNat 32 n, host := s.host.tail } ∧ t.retest = s.retest)

/-- R231, R247, R277: a frame with more rows than PAT answers `ALLOC_ERROR` (5) and nothing else happens; any other DECODE
ends `OK` (0) with `RETEST` advanced by one, modulo 16, or `RAW_OVERRUN` (8) with `RETEST` as it was. -/
def Obligations.DecodeEntryAndEnd : Prop :=
  ∀ s : State,
    (s.params.maxLines < frameRows s → exec .decode s = .next { s with result := 5, host := s.host.tail }) ∧
    (frameRows s ≤ s.params.maxLines → ∃ t, exec .decode s = .next t ∧
      ((t.result = 0 ∧ t.retest = s.retest + 1) ∨ (t.result = 8 ∧ t.retest = s.retest)))

/-- R252: what DECODE leaves alone. -/
def Obligations.DecodeFrame : Prop :=
  ∀ s : State, ∃ t, exec .decode s = .next t ∧
    (∀ j, t.job j = { s.job j with thresh := (t.job j).thresh }) ∧ t.jobs.length = s.jobs.length ∧
    (∀ r, frameRows s ≤ r → t.row r = s.row r) ∧ t.pat.length = s.pat.length ∧
    t = { s with
      jobs := t.jobs, pat := t.pat, retest := t.retest, out := t.out, result := t.result, value := t.value
      work := t.work, freeDraws := t.freeDraws, host := s.host.tail }

/-- R246, R62: DECODE never returns more records than the output capacity or the rows of the frame, and writes no byte of
OUT at or past the end of the records it returns. -/
def Obligations.DecodeRespectsCapacity : Prop :=
  ∀ s : State, s.out.wf = true → (∀ j < s.njobs.toNat, (s.job j).payloadBits.toNat ≤ 448) →
    frameRows s ≤ s.params.maxLines →
    ∃ t, exec .decode s = .next t ∧ t.value.toNat ≤ min s.staging.outCap.toNat s.params.outRecords ∧
      t.value.toNat ≤ frameRows s ∧ ∀ x, 64 * t.value.toNat ≤ x → t.out.read x = s.out.read x

/-- R302, R317: with no Job, or no room for a record, DECODE tests nothing: it ends `OK` with 0 records and `RETEST` advanced;
the Jobs and OUT are untouched. -/
def Obligations.DecodeWithNothingToTest : Prop :=
  ∀ s : State, frameRows s ≤ s.params.maxLines → s.njobs = 0 ∨ s.staging.outCap = 0 →
    ∃ t, exec .decode s = .next t ∧
      t = { s with result := 0, value := 0, retest := s.retest + 1, pat := t.pat, host := s.host.tail }

/-- R314: with RAW padded behind every row as the rule says, DECODE never leaves RAW: it completes with `OK`. -/
def Obligations.DecodeNeverOverruns : Prop :=
  ∀ s : State, JobsOk s → frameRows s ≤ s.params.maxLines →
    (∀ j < s.njobs.toNat, ∀ d, descriptorOf (s.job j).pf = some d → ∀ r < frameRows s,
      rowBase s.geom r + s.geom.bpl.toNat + d.stride * (2 + (s.job j).phaseShift.toNat / 256) ≤ s.rawBytes) →
    ∃ t, exec .decode s = .next t ∧ t.result = 0 ∧ t.retest = s.retest + 1

/-! ## Rules about every instruction -/

/-- R61, R28: no instruction writes RAW, its size, the parameters or (between commands) the sequencer position; each
completes one transaction; only `RD` sets the reply. -/
def Obligations.EveryInstructionKeepsHostOwned : Prop :=
  ∀ (i : Instr) (s : State), ∃ t, exec i s = .next t ∧ t.raw = s.raw ∧ t.rawBytes = s.rawBytes ∧ t.params = s.params ∧
    t.seq = s.seq ∧ t.host = s.host.tail ∧ ((∀ reg, i ≠ .rd reg) → t.reply = s.reply)

/-- R41, R192: the geometry changes only by a write to a geometry register while no Job exists. -/
def Obligations.GeometryChangesOnlyUnlocked : Prop :=
  ∀ (i : Instr) (s t : State), exec i s = .next t →
    s.njobs ≠ 0 ∨ (∀ reg v, i = .wr reg v → 0x09 < reg.toNat) → t.geom = s.geom

/-- R31, R34: no command writes a staging register; only DECODE writes `RETEST`. -/
def Obligations.StagingAndRetestWriters : Prop :=
  ∀ (i : Instr) (s t : State), exec i s = .next t →
    ((∀ reg v, i = .wr reg v → ¬ (0x10 ≤ reg.toNat ∧ reg.toNat ≤ 0x1C)) → t.staging = s.staging) ∧
    (i ≠ .decode → i ≠ .wr 0x7F 0x04 → t.retest = s.retest)

/-- R62, "The block never reads OUT": two states that differ in OUT alone go on to states that differ in OUT alone. -/
def Obligations.OutIsNeverRead : Prop :=
  ∀ (i : Instr) (s : State) (out : Memory), ∃ t u, exec i s = .next t ∧ exec i { s with out := out } = .next u ∧
    u = { t with out := u.out }

/-! ## Invariants -/

/-- The state after power-on reset meets every invariant stated below. -/
def Obligations.ResetMeetsInvariants : Prop :=
  MemoriesOk State.reset ∧ PatOk State.reset ∧ ThresholdsOk State.reset ∧ ServicesOk State.reset ∧ JobsOk State.reset

/-- Both memories keep their canonical form, RAW lists nothing past its size. -/
def Obligations.StepKeepsMemories : Prop :=
  ∀ s t : State, MemoriesOk s → step s = .next t → MemoriesOk t

/-- R38: the invariants of PAT hold after every command, given they hold before it. -/
def Obligations.StepKeepsPat : Prop :=
  ∀ s t : State, PatOk s → step s = .next t → PatOk t

/-- R168: no threshold ever leaves 0..195584. -/
def Obligations.StepKeepsThresholds : Prop :=
  ∀ s t : State, ThresholdsOk s → step s = .next t → ThresholdsOk t

/-- R32: `SERVICES` is the union of the identifiers of the Jobs after every command, and unused entries are 0. -/
def Obligations.StepKeepsServices : Prop :=
  ∀ s t : State, ServicesOk s → step s = .next t → ServicesOk t

/-- R35, R30: every Job stays as JOBADD configured it under the locked geometry, whatever is done. -/
def Obligations.StepKeepsJobs : Prop :=
  ∀ s t : State, JobsOk s → step s = .next t → JobsOk t

/-! ## Host procedures -/

/-- R210, R41: ADDSVC leaves the geometry alone and returns `SERVICES`, or passes on `CFG_ERROR` or `ALLOC_ERROR`. The
catalogue's entries that carry no signal (R217: they never reach JOBADD; that an entry with no CRI, FRC or payload bit is
such an entry is read from the rule, DEDUCED, notes/assumptions/19.md) change neither its result nor the state it leaves.
R210 to R213, entry by entry: with 8 Jobs the loop ends; an entry that is not eligible, or whose signal does not fit the
window, is passed over; any other has its operands written and is added, and it is granted, passed over or the end of ADDSVC
as JOBADD answers. Where a rate is 0 or the format unknown the rules state no window, and a free value decides
(notes/assumptions/6.md, 7.md); that a value is cut to its field is the MODEL'S CHOICE (DESIGN CHOICE, 15.md). -/
def Obligations.AddsvcReturnsServices : Prop :=
  (∀ (hp : Config.HostParams) (requested : BitVec 32) (strictness : Nat) (s : State), s.seq = .idle →
    addsvcProcedure hp requested strictness s = addsvcLoop hp requested strictness hp.table 0 s) ∧
  (∀ (hp : Config.HostParams) (requested granted : BitVec 32) (strictness : Nat) (s : State), s.seq = .idle →
    let ended := ({ s with reply := some s.services }, HostReply.services s.services granted)
    addsvcLoop hp requested strictness [] granted s = ended ∧
    ∀ (e : Config.ServiceEntry) (rest : List Config.ServiceEntry),
      let loop := addsvcLoop hp requested strictness (e :: rest) granted s
      let looked := { s with reply := some (BitVec.ofNat 32 s.njobs.toNat) }
      let passed := addsvcLoop hp requested strictness rest granted looked
      (8 ≤ s.njobs.toNat → loop = ended) ∧
      (s.njobs.toNat < 8 → (∀ r0 r1, ¬ Eligible s.geom requested strictness e r0 r1) → loop = passed) ∧
      ∀ d, s.njobs.toNat < 8 → RatesGiven s.geom e d →
        (¬ FitsWindow hp s.geom strictness e d → loop = passed) ∧
        ∀ r0 r1, FitsWindow hp s.geom strictness e d → Eligible s.geom requested strictness e r0 r1 →
          ∃ t, exec .jobadd { looked with
              staging := operandsOf hp s.geom strictness e d r0 r1 s.staging
              host := .transaction (encode .jobadd) :: s.host } = .next t ∧
            let told := { t with reply := some (BitVec.ofNat 32 t.result.toNat) }
            (t.result = 0 → loop = addsvcLoop hp requested strictness rest (granted ||| e.id) told) ∧
            (t.result = 4 ∨ t.result = 5 → loop = (told, .error (BitVec.ofNat 32 t.result.toNat))) ∧
            (t.result ≠ 0 → t.result ≠ 4 → t.result ≠ 5 →
              loop = addsvcLoop hp requested strictness rest granted told)) ∧
  (∀ (hp : Config.HostParams) (requested : BitVec 32) (strictness : Nat) (s : State), s.seq = .idle →
    addsvcProcedure hp requested strictness s =
      addsvcProcedure { hp with table := hp.table.filter fun e =>
        !(e.criBits == 0 && e.frcBits == 0 && e.payloadBits == 0) } requested strictness s) ∧
  ∀ (hp : Config.HostParams) (requested : BitVec 32) (strictness : Nat) (s : State), s.seq = .idle →
    let out := addsvcProcedure hp requested strictness s
    out.1.geom = s.geom ∧ out.1.host = s.host ∧
    (∀ active granted, out.2 = .services active granted → active = out.1.services) ∧
    (∀ code, out.2 = .error code → code = 4 ∨ code = 5)

/-- R214, the range of one field: empty when the entry does not use the field (its `first` is then 0, the MODEL'S CHOICE,
DESIGN CHOICE, notes/assumptions/20.md); rejected when the field has no row; with a known start and a strictness above 0
rejected when lines of the entry that must be there are not, or none is, else the rows of the lines that are; without, every
row of the field. -/
def Obligations.AddsvcRowRanges : Prop :=
  ∀ strictness first last start count row0 : Nat,
    let range := fieldRange strictness first last start count row0
    let stop := start + count - 1
    (first = 0 ∨ last = 0 → range = some (0, 0)) ∧
    (first ≠ 0 → last ≠ 0 →
      (count = 0 → range = none) ∧
      (count ≠ 0 → start = 0 ∨ strictness = 0 → range = some (row0, count)) ∧
      (count ≠ 0 → start ≠ 0 → strictness ≠ 0 →
        ((1 < strictness ∨ first = last) → (first < start ∨ stop < last) → range = none) ∧
        (stop < first ∨ last < start ∨ last < first → range = none) ∧
        (((strictness = 1 ∧ first ≠ last) ∨ (start ≤ first ∧ last ≤ stop)) → first ≤ stop → start ≤ last → first ≤ last →
          ∃ lo hi, lo = max start first ∧ hi = min stop last ∧ range = some (row0 + (lo - start), hi + 1 - lo))))

/-- R216, R217: PARAMS, while no Job exists, stores the geometry it derives and changes nothing else. The standard is the
hint or that of the first requested entry; requested entries of another standard are dropped; the offset is the least start,
the bytes per line reach the greatest end, and each field runs from its least first line to its greatest last line; the union
of the kept identifiers is returned. (That a value is written by its low bits, and a count in two's complement, is the
MODEL'S CHOICE, DESIGN CHOICE, notes/assumptions/15.md; the duration of a signal whose rate is 0 is free, 7.md.) -/
def Obligations.ParamsStoresGeometry : Prop :=
  (∀ e : Config.ServiceEntry, e.criRate ≠ 0 → e.bitRate ≠ 0 →
    signalNs e = 10 ^ 9 * ((e.criBits.toNat : ℚ) / e.criRate.toNat
      + ((e.frcBits.toNat : ℚ) + e.payloadBits.toNat) / e.bitRate.toNat)) ∧
  ∀ (hp : Config.HostParams) (requested : BitVec 32) (scanHint : Nat) (s : State), s.seq = .idle → s.njobs = 0 →
    let asked := askedEntries hp requested
    let scan := standardOf asked scanHint
    let kept := keptEntries asked scan
    let off := leastOr0 (kept.map (entryStart hp))
    let stop := greatestOr0 (kept.map fun e => entryStart hp e + entryLength hp (signalNs e))
    let field0 := usedRanges (kept.map fun e => (e.first0, e.last0))
    let field1 := usedRanges (kept.map fun e => (e.first1, e.last1))
    paramsProcedure hp requested scanHint s =
      ({ s with
          geom := { pixfmt := 0x01
                    rate := BitVec.ofNat 32 hp.refRate
                    bpl := BitVec.ofNat 32 (stop - off)
                    offset := BitVec.ofNat 32 off
                    start0 := BitVec.ofNat 32 (leastOr0 (field0.map (·.1)))
                    start1 := BitVec.ofNat 32 (leastOr0 (field1.map (·.1)))
                    count0 := linesOf field0
                    count1 := linesOf field1
                    flags := 0x2
                    scan := BitVec.ofNat 10 scan } }, (kept.map (·.id)).foldl (· ||| ·) 0)

/-- R208, R218: `remove_services` returns the services still active, and no Job that carries a requested identifier stays. -/
def Obligations.RemoveServicesReturnsRest : Prop :=
  ∀ (requested : BitVec 32) (s : State), s.seq = .idle → ShapeOk s →
    let out := removeServices requested s
    out.2 = out.1.services ∧ ∀ j < out.1.njobs.toNat, (out.1.job j).id &&& requested = 0
end

