-- ==== Sys2Proof/Laws/HostProc.lean ====
section
/-! SUPPORT. What the acceptance tests of ADDSVC can do, said once. -/

namespace Sys2Proof.Machine

/-- An entry that ADDSVC accepts is requested, carries a signal, fits the standard and the window, is attributed to lines, and
writes its operands for its row ranges. -/
theorem acceptEntry_some {hp : Config.HostParams} {g : Geometry} {requested : BitVec 32} {strictness : Nat}
    {e : Config.ServiceEntry} {writes : List (BitVec 7 × BitVec 32)}
    (h : acceptEntry hp g requested strictness e = some writes) :
    e.id &&& requested ≠ 0 ∧ carriesNoSignal e = false ∧ entryHasScan e g.scan.toNat = true ∧
    windowOk hp g e strictness = true ∧ synchronous g = true ∧
    ∃ rows, rowRanges g e strictness = some rows ∧ writes = entryWrites hp g e strictness rows := by
  unfold acceptEntry at h
  split at h
  · cases h
  split at h
  · cases h
  split at h
  · cases h
  split at h
  · cases h
  split at h
  · cases h
  obtain ⟨rows, hrows, rfl⟩ := Option.map_eq_some_iff.mp h
  simp_all

/-- An entry that carries no signal is never accepted. -/
@[simp] theorem acceptEntry_of_noSignal {hp : Config.HostParams} {g : Geometry} {requested : BitVec 32} {strictness : Nat}
    {e : Config.ServiceEntry} (h : carriesNoSignal e = true) : acceptEntry hp g requested strictness e = none := by
  simp [acceptEntry, h]

end Sys2Proof.Machine
end

