-- ==== Sys2Proof/Laws/Memory.lean ====
section
/-! SUPPORT. The laws of the byte memories: every operation keeps the canonical form, a read after a write gives what was
written, and a write leaves every other address alone. -/

namespace Sys2Proof.Machine

/-! ## The canonical form of a list of cells -/

theorem cellsWfFrom_cons {lo x : Nat} {v : Byte} {rest : List Host.Cell} :
    cellsWfFrom lo ((x, v) :: rest) = true ↔ lo ≤ x ∧ v ≠ unlistedByte ∧ cellsWfFrom (x + 1) rest = true := by
  simp [cellsWfFrom, and_assoc]

theorem cellsWfFrom_mono {lo lo' : Nat} (hle : lo' ≤ lo) :
    ∀ {cs : List Host.Cell}, cellsWfFrom lo cs = true → cellsWfFrom lo' cs = true
  | [], _ => rfl
  | (_, _) :: _, h => by
    obtain ⟨h1, h2, h3⟩ := cellsWfFrom_cons.mp h
    exact cellsWfFrom_cons.mpr ⟨by omega, h2, h3⟩

theorem cellsRead_below {lo a : Nat} (ha : a < lo) :
    ∀ {cs : List Host.Cell}, cellsWfFrom lo cs = true → cellsRead a cs = unlistedByte
  | [], _ => rfl
  | (x, _) :: _, h => by
    obtain ⟨h1, -, -⟩ := cellsWfFrom_cons.mp h
    rw [cellsRead, if_neg (by omega), if_pos (by omega)]

theorem cellsWrite_wf {a : Nat} {b : Byte} :
    ∀ {lo : Nat} {cs : List Host.Cell}, lo ≤ a → cellsWfFrom lo cs = true → cellsWfFrom lo (cellsWrite a b cs) = true
  | lo, [], hlo, _ => by
    unfold cellsWrite
    split
    · rfl
    · rename_i hb
      exact cellsWfFrom_cons.mpr ⟨hlo, hb, rfl⟩
  | lo, (x, v) :: rest, hlo, h => by
    obtain ⟨h1, h2, h3⟩ := cellsWfFrom_cons.mp h
    unfold cellsWrite
    split
    · split
      · exact h
      · rename_i hlt hb
        exact cellsWfFrom_cons.mpr ⟨hlo, hb, cellsWfFrom_cons.mpr ⟨by omega, h2, h3⟩⟩
    · split
      · rename_i hlt heq
        subst heq
        split
        · exact cellsWfFrom_mono (by omega) h3
        · rename_i hb
          exact cellsWfFrom_cons.mpr ⟨hlo, hb, h3⟩
      · exact cellsWfFrom_cons.mpr ⟨h1, h2, cellsWrite_wf (by omega) h3⟩

theorem cellsRead_cellsWrite_same {a : Nat} {b : Byte} :
    ∀ {lo : Nat} {cs : List Host.Cell}, cellsWfFrom lo cs = true → cellsRead a (cellsWrite a b cs) = b
  | lo, [], _ => by
    unfold cellsWrite
    split
    · rename_i hb
      simp [cellsRead, hb]
    · simp [cellsRead]
  | lo, (x, v) :: rest, h => by
    obtain ⟨h1, h2, h3⟩ := cellsWfFrom_cons.mp h
    unfold cellsWrite
    split
    · split
      · rename_i hlt hb
        rw [cellsRead, if_neg (by omega), if_pos hlt, hb]
      · simp [cellsRead]
    · split
      · rename_i hlt heq
        subst heq
        split
        · rename_i hb
          rw [cellsRead_below (by omega) h3, hb]
        · simp [cellsRead]
      · rw [cellsRead, if_neg (by assumption), if_neg (by assumption), cellsRead_cellsWrite_same h3]

theorem cellsRead_cellsWrite_other {a a' : Nat} {b : Byte} (hne : a' ≠ a) :
    ∀ {lo : Nat} {cs : List Host.Cell}, cellsWfFrom lo cs = true → cellsRead a' (cellsWrite a b cs) = cellsRead a' cs
  | lo, [], _ => by
    unfold cellsWrite
    split <;> simp [cellsRead, hne]
  | lo, (x, v) :: rest, h => by
    obtain ⟨h1, h2, h3⟩ := cellsWfFrom_cons.mp h
    unfold cellsWrite
    split
    · split
      · rfl
      · rename_i hlt hb
        rw [cellsRead, if_neg hne]
        split
        · rw [cellsRead, if_neg (by omega), if_pos (by omega)]
        · rfl
    · split
      · rename_i hlt heq
        subst heq
        split
        · rw [cellsRead, if_neg hne]
          split
          · exact cellsRead_below (by omega) h3
          · rfl
        · rw [cellsRead, cellsRead, if_neg hne, if_neg hne]
      · rw [cellsRead, cellsRead]
        split
        · rfl
        · split
          · rfl
          · exact cellsRead_cellsWrite_other hne h3

theorem cellsOfBytes_wf : ∀ (bs : List Byte) (a : Nat), cellsWfFrom a (cellsOfBytes a bs) = true
  | [], _ => rfl
  | b :: bs, a => by
    unfold cellsOfBytes
    split
    · exact cellsWfFrom_mono (by omega) (cellsOfBytes_wf bs (a + 1))
    · rename_i hb
      exact cellsWfFrom_cons.mpr ⟨le_rfl, hb, cellsOfBytes_wf bs (a + 1)⟩

/-! ## Memory -/

namespace Memory

variable {m : Memory} {a a' : Nat} {b : Byte} {bs : List Byte}

theorem wf_empty : Memory.wf ⟨[]⟩ = true := rfl

theorem write_wf (h : m.wf = true) : (m.write a b).wf = true := cellsWrite_wf (Nat.zero_le a) h

theorem read_write_same (h : m.wf = true) : (m.write a b).read a = b := cellsRead_cellsWrite_same h

theorem read_write_other (h : m.wf = true) (hne : a' ≠ a) : (m.write a b).read a' = m.read a' :=
  cellsRead_cellsWrite_other hne h

theorem ofBytes_wf : (Memory.ofBytes bs).wf = true := cellsOfBytes_wf bs 0

theorem writeBytes_wf : ∀ (bs : List Byte) {m : Memory} {a : Nat}, m.wf = true → (m.writeBytes a bs).wf = true
  | [], _, _, h => h
  | _ :: bs, _, _, h => writeBytes_wf bs (write_wf h)

/-- What a store of several bytes leaves alone. -/
theorem writeBytes_read_outside :
    ∀ (bs : List Byte) {m : Memory} {a x : Nat}, m.wf = true → (x < a ∨ a + bs.length ≤ x) →
      (m.writeBytes a bs).read x = m.read x
  | [], _, _, _, _, _ => rfl
  | b :: bs, m, a, x, h, hx => by
    have hlen : (b :: bs).length = bs.length + 1 := rfl
    rw [writeBytes, writeBytes_read_outside bs (write_wf h) (by omega), read_write_other h (by omega)]

/-- What a store of several bytes stores. -/
theorem writeBytes_read_inside :
    ∀ (bs : List Byte) {m : Memory} {a q : Nat}, m.wf = true → (hq : q < bs.length) →
      (m.writeBytes a bs).read (a + q) = bs[q]
  | b :: bs, m, a, 0, h, _ => by
    rw [writeBytes, writeBytes_read_outside bs (write_wf h) (by omega)]
    exact read_write_same h
  | b :: bs, m, a, q + 1, h, hq => by
    have hq' : q < bs.length := by simpa using hq
    rw [writeBytes, show a + (q + 1) = a + 1 + q by omega, writeBytes_read_inside bs (write_wf h) hq']
    rfl

end Memory

/-! ## Reads of RAW -/

theorem memReadRaw_eq_some {raw : Memory} {rawBytes a n : Nat} (h : a + n ≤ rawBytes) :
    memReadRaw raw rawBytes a n = some ((List.range n).map fun o => raw.read (a + o)) := if_pos h

theorem memReadRaw_eq_none {raw : Memory} {rawBytes a n : Nat} (h : rawBytes < a + n) :
    memReadRaw raw rawBytes a n = none := if_neg (by omega)

end Sys2Proof.Machine
end

