-- ==== Sys2Proof/Laws/PerInstr.lean ====
section
/-! SUPPORT. Statements for all instructions, one lemma per constructor of Instr. -/

namespace Sys2Proof.Laws.TableRow

/-- The match value of an instruction's row of spec/opcode_table.json. -/
def matchOf : Instr → Transaction
  | .rd _ => 0x0000000000
  | .wr _ _ => 0x8000000000
  | .reset => 0xFF00000001
  | .jobadd => 0xFF00000002
  | .rmsvc => 0xFF00000003
  | .decode => 0xFF00000004
  | .slice _ _ => 0xFF00000005

/-- The mask of an instruction's row of spec/opcode_table.json. -/
def maskOf : Instr → Transaction
  | .rd _ => 0x8000000000
  | .wr _ _ => 0x8000000000
  | .reset => 0xFFFFFFFFFF
  | .jobadd => 0xFFFFFFFFFF
  | .rmsvc => 0xFFFFFFFFFF
  | .decode => 0xFFFFFFFFFF
  | .slice _ _ => 0xFF0000F8FF

/-- The word the encoder writes for an instruction lies in the instruction's row of the opcode table. -/
def Statement (i : Instr) : Prop := encode i &&& maskOf i = matchOf i

theorem rd (reg : BitVec 7) : Statement (.rd reg) := by
  change transactionWord 0 reg 0 &&& 0x8000000000 = 0
  unfold transactionWord
  ext k hk
  simp only [BitVec.getElem_and, BitVec.getElem_append]
  interval_cases k <;> simp

theorem wr (reg : BitVec 7) (data : BitVec 32) : Statement (.wr reg data) := by
  change transactionWord 1 reg data &&& 0x8000000000 = 0x8000000000
  unfold transactionWord
  ext k hk
  simp only [BitVec.getElem_and, BitVec.getElem_append]
  interval_cases k <;> simp

theorem reset : Statement .reset := by
  unfold Statement
  decide

theorem jobadd : Statement .jobadd := by
  unfold Statement
  decide

theorem rmsvc : Statement .rmsvc := by
  unfold Statement
  decide

theorem decode : Statement .decode := by
  unfold Statement
  decide

theorem slice (a : BitVec 3) (b : BitVec 16) : Statement (.slice a b) := by
  change transactionWord 1 cmdNumber (commandWord 0x05 (a.setWidth 8) b) &&& 0xFF0000F8FF = 0xFF00000005
  unfold transactionWord commandWord
  ext k hk
  simp only [BitVec.getElem_and, BitVec.getElem_append, BitVec.getElem_setWidth]
  interval_cases k <;> simp

end Sys2Proof.Laws.TableRow
end

