-- ==== Sys2Proof/Laws/State.lean ====
section
/-! SUPPORT. One lemma per field per update of State, so that no later proof unfolds a record update. -/

namespace Sys2Proof.Machine

variable (s : State)

/-! ### raise -/

@[simp] theorem raise_params (c : ResultCode) : (raise c s).params = s.params := rfl
@[simp] theorem raise_geom (c : ResultCode) : (raise c s).geom = s.geom := rfl
@[simp] theorem raise_staging (c : ResultCode) : (raise c s).staging = s.staging := rfl
@[simp] theorem raise_result (c : ResultCode) : (raise c s).result = c.number := rfl
@[simp] theorem raise_value (c : ResultCode) : (raise c s).value = s.value := rfl
@[simp] theorem raise_services (c : ResultCode) : (raise c s).services = s.services := rfl
@[simp] theorem raise_njobs (c : ResultCode) : (raise c s).njobs = s.njobs := rfl
@[simp] theorem raise_retest (c : ResultCode) : (raise c s).retest = s.retest := rfl
@[simp] theorem raise_jobs (c : ResultCode) : (raise c s).jobs = s.jobs := rfl
@[simp] theorem raise_pat (c : ResultCode) : (raise c s).pat = s.pat := rfl
@[simp] theorem raise_work (c : ResultCode) : (raise c s).work = s.work := rfl
@[simp] theorem raise_seq (c : ResultCode) : (raise c s).seq = s.seq := rfl
@[simp] theorem raise_raw (c : ResultCode) : (raise c s).raw = s.raw := rfl
@[simp] theorem raise_rawBytes (c : ResultCode) : (raise c s).rawBytes = s.rawBytes := rfl
@[simp] theorem raise_out (c : ResultCode) : (raise c s).out = s.out := rfl
@[simp] theorem raise_reply (c : ResultCode) : (raise c s).reply = s.reply := rfl
@[simp] theorem raise_host (c : ResultCode) : (raise c s).host = s.host := rfl
@[simp] theorem raise_freeDraws (c : ResultCode) : (raise c s).freeDraws = s.freeDraws := rfl

/-! ### finish -/

@[simp] theorem finish_params (c : ResultCode) (v : BitVec 32) : (finish c v s).params = s.params := rfl
@[simp] theorem finish_geom (c : ResultCode) (v : BitVec 32) : (finish c v s).geom = s.geom := rfl
@[simp] theorem finish_staging (c : ResultCode) (v : BitVec 32) : (finish c v s).staging = s.staging := rfl
@[simp] theorem finish_result (c : ResultCode) (v : BitVec 32) : (finish c v s).result = c.number := rfl
@[simp] theorem finish_value (c : ResultCode) (v : BitVec 32) : (finish c v s).value = v := rfl
@[simp] theorem finish_services (c : ResultCode) (v : BitVec 32) : (finish c v s).services = s.services := rfl
@[simp] theorem finish_njobs (c : ResultCode) (v : BitVec 32) : (finish c v s).njobs = s.njobs := rfl
@[simp] theorem finish_retest (c : ResultCode) (v : BitVec 32) : (finish c v s).retest = s.retest := rfl
@[simp] theorem finish_jobs (c : ResultCode) (v : BitVec 32) : (finish c v s).jobs = s.jobs := rfl
@[simp] theorem finish_pat (c : ResultCode) (v : BitVec 32) : (finish c v s).pat = s.pat := rfl
@[simp] theorem finish_work (c : ResultCode) (v : BitVec 32) : (finish c v s).work = s.work := rfl
@[simp] theorem finish_seq (c : ResultCode) (v : BitVec 32) : (finish c v s).seq = s.seq := rfl
@[simp] theorem finish_raw (c : ResultCode) (v : BitVec 32) : (finish c v s).raw = s.raw := rfl
@[simp] theorem finish_rawBytes (c : ResultCode) (v : BitVec 32) : (finish c v s).rawBytes = s.rawBytes := rfl
@[simp] theorem finish_out (c : ResultCode) (v : BitVec 32) : (finish c v s).out = s.out := rfl
@[simp] theorem finish_reply (c : ResultCode) (v : BitVec 32) : (finish c v s).reply = s.reply := rfl
@[simp] theorem finish_host (c : ResultCode) (v : BitVec 32) : (finish c v s).host = s.host := rfl
@[simp] theorem finish_freeDraws (c : ResultCode) (v : BitVec 32) : (finish c v s).freeDraws = s.freeDraws := rfl

/-! ### complete -/

@[simp] theorem complete_params : (complete s).params = s.params := rfl
@[simp] theorem complete_geom : (complete s).geom = s.geom := rfl
@[simp] theorem complete_staging : (complete s).staging = s.staging := rfl
@[simp] theorem complete_result : (complete s).result = s.result := rfl
@[simp] theorem complete_value : (complete s).value = s.value := rfl
@[simp] theorem complete_services : (complete s).services = s.services := rfl
@[simp] theorem complete_njobs : (complete s).njobs = s.njobs := rfl
@[simp] theorem complete_retest : (complete s).retest = s.retest := rfl
@[simp] theorem complete_jobs : (complete s).jobs = s.jobs := rfl
@[simp] theorem complete_pat : (complete s).pat = s.pat := rfl
@[simp] theorem complete_work : (complete s).work = s.work := rfl
@[simp] theorem complete_seq : (complete s).seq = s.seq := rfl
@[simp] theorem complete_raw : (complete s).raw = s.raw := rfl
@[simp] theorem complete_rawBytes : (complete s).rawBytes = s.rawBytes := rfl
@[simp] theorem complete_out : (complete s).out = s.out := rfl
@[simp] theorem complete_reply : (complete s).reply = s.reply := rfl
@[simp] theorem complete_host : (complete s).host = s.host.tail := rfl
@[simp] theorem complete_freeDraws : (complete s).freeDraws = s.freeDraws := rfl

/-! ### storeOut -/

@[simp] theorem storeOut_params (a : Nat) (bs : List Byte) : (storeOut a bs s).params = s.params := rfl
@[simp] theorem storeOut_geom (a : Nat) (bs : List Byte) : (storeOut a bs s).geom = s.geom := rfl
@[simp] theorem storeOut_staging (a : Nat) (bs : List Byte) : (storeOut a bs s).staging = s.staging := rfl
@[simp] theorem storeOut_result (a : Nat) (bs : List Byte) : (storeOut a bs s).result = s.result := rfl
@[simp] theorem storeOut_value (a : Nat) (bs : List Byte) : (storeOut a bs s).value = s.value := rfl
@[simp] theorem storeOut_services (a : Nat) (bs : List Byte) : (storeOut a bs s).services = s.services := rfl
@[simp] theorem storeOut_njobs (a : Nat) (bs : List Byte) : (storeOut a bs s).njobs = s.njobs := rfl
@[simp] theorem storeOut_retest (a : Nat) (bs : List Byte) : (storeOut a bs s).retest = s.retest := rfl
@[simp] theorem storeOut_jobs (a : Nat) (bs : List Byte) : (storeOut a bs s).jobs = s.jobs := rfl
@[simp] theorem storeOut_pat (a : Nat) (bs : List Byte) : (storeOut a bs s).pat = s.pat := rfl
@[simp] theorem storeOut_work (a : Nat) (bs : List Byte) : (storeOut a bs s).work = s.work := rfl
@[simp] theorem storeOut_seq (a : Nat) (bs : List Byte) : (storeOut a bs s).seq = s.seq := rfl
@[simp] theorem storeOut_raw (a : Nat) (bs : List Byte) : (storeOut a bs s).raw = s.raw := rfl
@[simp] theorem storeOut_rawBytes (a : Nat) (bs : List Byte) : (storeOut a bs s).rawBytes = s.rawBytes := rfl
@[simp] theorem storeOut_out (a : Nat) (bs : List Byte) : (storeOut a bs s).out = s.out.writeBytes a bs := rfl
@[simp] theorem storeOut_reply (a : Nat) (bs : List Byte) : (storeOut a bs s).reply = s.reply := rfl
@[simp] theorem storeOut_host (a : Nat) (bs : List Byte) : (storeOut a bs s).host = s.host := rfl
@[simp] theorem storeOut_freeDraws (a : Nat) (bs : List Byte) : (storeOut a bs s).freeDraws = s.freeDraws := rfl

/-! ### setJob -/

@[simp] theorem setJob_params (j : Nat) (x : Job) : (setJob j x s).params = s.params := rfl
@[simp] theorem setJob_geom (j : Nat) (x : Job) : (setJob j x s).geom = s.geom := rfl
@[simp] theorem setJob_staging (j : Nat) (x : Job) : (setJob j x s).staging = s.staging := rfl
@[simp] theorem setJob_result (j : Nat) (x : Job) : (setJob j x s).result = s.result := rfl
@[simp] theorem setJob_value (j : Nat) (x : Job) : (setJob j x s).value = s.value := rfl
@[simp] theorem setJob_services (j : Nat) (x : Job) : (setJob j x s).services = s.services := rfl
@[simp] theorem setJob_njobs (j : Nat) (x : Job) : (setJob j x s).njobs = s.njobs := rfl
@[simp] theorem setJob_retest (j : Nat) (x : Job) : (setJob j x s).retest = s.retest := rfl
@[simp] theorem setJob_jobs (j : Nat) (x : Job) : (setJob j x s).jobs = s.jobs.set j x := rfl
@[simp] theorem setJob_pat (j : Nat) (x : Job) : (setJob j x s).pat = s.pat := rfl
@[simp] theorem setJob_work (j : Nat) (x : Job) : (setJob j x s).work = s.work := rfl
@[simp] theorem setJob_seq (j : Nat) (x : Job) : (setJob j x s).seq = s.seq := rfl
@[simp] theorem setJob_raw (j : Nat) (x : Job) : (setJob j x s).raw = s.raw := rfl
@[simp] theorem setJob_rawBytes (j : Nat) (x : Job) : (setJob j x s).rawBytes = s.rawBytes := rfl
@[simp] theorem setJob_out (j : Nat) (x : Job) : (setJob j x s).out = s.out := rfl
@[simp] theorem setJob_reply (j : Nat) (x : Job) : (setJob j x s).reply = s.reply := rfl
@[simp] theorem setJob_host (j : Nat) (x : Job) : (setJob j x s).host = s.host := rfl
@[simp] theorem setJob_freeDraws (j : Nat) (x : Job) : (setJob j x s).freeDraws = s.freeDraws := rfl

/-! ### setThresh -/

@[simp] theorem setThresh_params (j : Nat) (v : BitVec 32) : (setThresh j v s).params = s.params := rfl
@[simp] theorem setThresh_geom (j : Nat) (v : BitVec 32) : (setThresh j v s).geom = s.geom := rfl
@[simp] theorem setThresh_staging (j : Nat) (v : BitVec 32) : (setThresh j v s).staging = s.staging := rfl
@[simp] theorem setThresh_result (j : Nat) (v : BitVec 32) : (setThresh j v s).result = s.result := rfl
@[simp] theorem setThresh_value (j : Nat) (v : BitVec 32) : (setThresh j v s).value = s.value := rfl
@[simp] theorem setThresh_services (j : Nat) (v : BitVec 32) : (setThresh j v s).services = s.services := rfl
@[simp] theorem setThresh_njobs (j : Nat) (v : BitVec 32) : (setThresh j v s).njobs = s.njobs := rfl
@[simp] theorem setThresh_retest (j : Nat) (v : BitVec 32) : (setThresh j v s).retest = s.retest := rfl
@[simp] theorem setThresh_jobs (j : Nat) (v : BitVec 32) : (setThresh j v s).jobs = s.jobs.set j { s.job j with thresh := v } := rfl
@[simp] theorem setThresh_pat (j : Nat) (v : BitVec 32) : (setThresh j v s).pat = s.pat := rfl
@[simp] theorem setThresh_work (j : Nat) (v : BitVec 32) : (setThresh j v s).work = s.work := rfl
@[simp] theorem setThresh_seq (j : Nat) (v : BitVec 32) : (setThresh j v s).seq = s.seq := rfl
@[simp] theorem setThresh_raw (j : Nat) (v : BitVec 32) : (setThresh j v s).raw = s.raw := rfl
@[simp] theorem setThresh_rawBytes (j : Nat) (v : BitVec 32) : (setThresh j v s).rawBytes = s.rawBytes := rfl
@[simp] theorem setThresh_out (j : Nat) (v : BitVec 32) : (setThresh j v s).out = s.out := rfl
@[simp] theorem setThresh_reply (j : Nat) (v : BitVec 32) : (setThresh j v s).reply = s.reply := rfl
@[simp] theorem setThresh_host (j : Nat) (v : BitVec 32) : (setThresh j v s).host = s.host := rfl
@[simp] theorem setThresh_freeDraws (j : Nat) (v : BitVec 32) : (setThresh j v s).freeDraws = s.freeDraws := rfl

/-! ### setRow -/

@[simp] theorem setRow_params (r : Nat) (row : Row) : (setRow r row s).params = s.params := rfl
@[simp] theorem setRow_geom (r : Nat) (row : Row) : (setRow r row s).geom = s.geom := rfl
@[simp] theorem setRow_staging (r : Nat) (row : Row) : (setRow r row s).staging = s.staging := rfl
@[simp] theorem setRow_result (r : Nat) (row : Row) : (setRow r row s).result = s.result := rfl
@[simp] theorem setRow_value (r : Nat) (row : Row) : (setRow r row s).value = s.value := rfl
@[simp] theorem setRow_services (r : Nat) (row : Row) : (setRow r row s).services = s.services := rfl
@[simp] theorem setRow_njobs (r : Nat) (row : Row) : (setRow r row s).njobs = s.njobs := rfl
@[simp] theorem setRow_retest (r : Nat) (row : Row) : (setRow r row s).retest = s.retest := rfl
@[simp] theorem setRow_jobs (r : Nat) (row : Row) : (setRow r row s).jobs = s.jobs := rfl
@[simp] theorem setRow_pat (r : Nat) (row : Row) : (setRow r row s).pat = s.pat.set r row := rfl
@[simp] theorem setRow_work (r : Nat) (row : Row) : (setRow r row s).work = s.work := rfl
@[simp] theorem setRow_seq (r : Nat) (row : Row) : (setRow r row s).seq = s.seq := rfl
@[simp] theorem setRow_raw (r : Nat) (row : Row) : (setRow r row s).raw = s.raw := rfl
@[simp] theorem setRow_rawBytes (r : Nat) (row : Row) : (setRow r row s).rawBytes = s.rawBytes := rfl
@[simp] theorem setRow_out (r : Nat) (row : Row) : (setRow r row s).out = s.out := rfl
@[simp] theorem setRow_reply (r : Nat) (row : Row) : (setRow r row s).reply = s.reply := rfl
@[simp] theorem setRow_host (r : Nat) (row : Row) : (setRow r row s).host = s.host := rfl
@[simp] theorem setRow_freeDraws (r : Nat) (row : Row) : (setRow r row s).freeDraws = s.freeDraws := rfl

/-! ### retireSlicer -/

@[simp] theorem retireSlicer_params : (retireSlicer s).params = s.params := rfl
@[simp] theorem retireSlicer_geom : (retireSlicer s).geom = s.geom := rfl
@[simp] theorem retireSlicer_staging : (retireSlicer s).staging = s.staging := rfl
@[simp] theorem retireSlicer_result : (retireSlicer s).result = s.result := rfl
@[simp] theorem retireSlicer_value : (retireSlicer s).value = s.value := rfl
@[simp] theorem retireSlicer_services : (retireSlicer s).services = s.services := rfl
@[simp] theorem retireSlicer_njobs : (retireSlicer s).njobs = s.njobs := rfl
@[simp] theorem retireSlicer_retest : (retireSlicer s).retest = s.retest := rfl
@[simp] theorem retireSlicer_jobs : (retireSlicer s).jobs = s.jobs := rfl
@[simp] theorem retireSlicer_pat : (retireSlicer s).pat = s.pat := rfl
@[simp] theorem retireSlicer_work : (retireSlicer s).work = Config.freeSlicerRegs s.freeDraws := rfl
@[simp] theorem retireSlicer_seq : (retireSlicer s).seq = s.seq := rfl
@[simp] theorem retireSlicer_raw : (retireSlicer s).raw = s.raw := rfl
@[simp] theorem retireSlicer_rawBytes : (retireSlicer s).rawBytes = s.rawBytes := rfl
@[simp] theorem retireSlicer_out : (retireSlicer s).out = s.out := rfl
@[simp] theorem retireSlicer_reply : (retireSlicer s).reply = s.reply := rfl
@[simp] theorem retireSlicer_host : (retireSlicer s).host = s.host := rfl
@[simp] theorem retireSlicer_freeDraws : (retireSlicer s).freeDraws = s.freeDraws + 1 := rfl

/-! ### removeJob -/

@[simp] theorem removeJob_params (i : Nat) : (removeJob i s).params = s.params := rfl
@[simp] theorem removeJob_geom (i : Nat) : (removeJob i s).geom = s.geom := rfl
@[simp] theorem removeJob_staging (i : Nat) : (removeJob i s).staging = s.staging := rfl
@[simp] theorem removeJob_result (i : Nat) : (removeJob i s).result = s.result := rfl
@[simp] theorem removeJob_value (i : Nat) : (removeJob i s).value = s.value := rfl
@[simp] theorem removeJob_services (i : Nat) : (removeJob i s).services = s.services := rfl
@[simp] theorem removeJob_njobs (i : Nat) : (removeJob i s).njobs = s.njobs - 1 := rfl
@[simp] theorem removeJob_retest (i : Nat) : (removeJob i s).retest = s.retest := rfl
@[simp] theorem removeJob_jobs (i : Nat) : (removeJob i s).jobs = removedJobs i s.njobs.toNat s.jobs := rfl
@[simp] theorem removeJob_pat (i : Nat) : (removeJob i s).pat = s.pat.map (compactRow (jobRef i)) := rfl
@[simp] theorem removeJob_work (i : Nat) : (removeJob i s).work = s.work := rfl
@[simp] theorem removeJob_seq (i : Nat) : (removeJob i s).seq = s.seq := rfl
@[simp] theorem removeJob_raw (i : Nat) : (removeJob i s).raw = s.raw := rfl
@[simp] theorem removeJob_rawBytes (i : Nat) : (removeJob i s).rawBytes = s.rawBytes := rfl
@[simp] theorem removeJob_out (i : Nat) : (removeJob i s).out = s.out := rfl
@[simp] theorem removeJob_reply (i : Nat) : (removeJob i s).reply = s.reply := rfl
@[simp] theorem removeJob_host (i : Nat) : (removeJob i s).host = s.host := rfl
@[simp] theorem removeJob_freeDraws (i : Nat) : (removeJob i s).freeDraws = s.freeDraws := rfl

/-! ### hostFillRaw -/

@[simp] theorem hostFillRaw_params (bytes : List Byte) : (hostFillRaw bytes s).params = s.params := rfl
@[simp] theorem hostFillRaw_geom (bytes : List Byte) : (hostFillRaw bytes s).geom = s.geom := rfl
@[simp] theorem hostFillRaw_staging (bytes : List Byte) : (hostFillRaw bytes s).staging = s.staging := rfl
@[simp] theorem hostFillRaw_result (bytes : List Byte) : (hostFillRaw bytes s).result = s.result := rfl
@[simp] theorem hostFillRaw_value (bytes : List Byte) : (hostFillRaw bytes s).value = s.value := rfl
@[simp] theorem hostFillRaw_services (bytes : List Byte) : (hostFillRaw bytes s).services = s.services := rfl
@[simp] theorem hostFillRaw_njobs (bytes : List Byte) : (hostFillRaw bytes s).njobs = s.njobs := rfl
@[simp] theorem hostFillRaw_retest (bytes : List Byte) : (hostFillRaw bytes s).retest = s.retest := rfl
@[simp] theorem hostFillRaw_jobs (bytes : List Byte) : (hostFillRaw bytes s).jobs = s.jobs := rfl
@[simp] theorem hostFillRaw_pat (bytes : List Byte) : (hostFillRaw bytes s).pat = s.pat := rfl
@[simp] theorem hostFillRaw_work (bytes : List Byte) : (hostFillRaw bytes s).work = s.work := rfl
@[simp] theorem hostFillRaw_seq (bytes : List Byte) : (hostFillRaw bytes s).seq = s.seq := rfl
@[simp] theorem hostFillRaw_raw (bytes : List Byte) : (hostFillRaw bytes s).raw = Memory.ofBytes bytes := rfl
@[simp] theorem hostFillRaw_rawBytes (bytes : List Byte) : (hostFillRaw bytes s).rawBytes = bytes.length := rfl
@[simp] theorem hostFillRaw_out (bytes : List Byte) : (hostFillRaw bytes s).out = s.out := rfl
@[simp] theorem hostFillRaw_reply (bytes : List Byte) : (hostFillRaw bytes s).reply = s.reply := rfl
@[simp] theorem hostFillRaw_host (bytes : List Byte) : (hostFillRaw bytes s).host = s.host := rfl
@[simp] theorem hostFillRaw_freeDraws (bytes : List Byte) : (hostFillRaw bytes s).freeDraws = s.freeDraws := rfl

/-! ### hostFillOut -/

@[simp] theorem hostFillOut_params (bytes : List Byte) : (hostFillOut bytes s).params = s.params := rfl
@[simp] theorem hostFillOut_geom (bytes : List Byte) : (hostFillOut bytes s).geom = s.geom := rfl
@[simp] theorem hostFillOut_staging (bytes : List Byte) : (hostFillOut bytes s).staging = s.staging := rfl
@[simp] theorem hostFillOut_result (bytes : List Byte) : (hostFillOut bytes s).result = s.result := rfl
@[simp] theorem hostFillOut_value (bytes : List Byte) : (hostFillOut bytes s).value = s.value := rfl
@[simp] theorem hostFillOut_services (bytes : List Byte) : (hostFillOut bytes s).services = s.services := rfl
@[simp] theorem hostFillOut_njobs (bytes : List Byte) : (hostFillOut bytes s).njobs = s.njobs := rfl
@[simp] theorem hostFillOut_retest (bytes : List Byte) : (hostFillOut bytes s).retest = s.retest := rfl
@[simp] theorem hostFillOut_jobs (bytes : List Byte) : (hostFillOut bytes s).jobs = s.jobs := rfl
@[simp] theorem hostFillOut_pat (bytes : List Byte) : (hostFillOut bytes s).pat = s.pat := rfl
@[simp] theorem hostFillOut_work (bytes : List Byte) : (hostFillOut bytes s).work = s.work := rfl
@[simp] theorem hostFillOut_seq (bytes : List Byte) : (hostFillOut bytes s).seq = s.seq := rfl
@[simp] theorem hostFillOut_raw (bytes : List Byte) : (hostFillOut bytes s).raw = s.raw := rfl
@[simp] theorem hostFillOut_rawBytes (bytes : List Byte) : (hostFillOut bytes s).rawBytes = s.rawBytes := rfl
@[simp] theorem hostFillOut_out (bytes : List Byte) : (hostFillOut bytes s).out = s.out.writeBytes 0 (bytes.take (outBytes s)) := rfl
@[simp] theorem hostFillOut_reply (bytes : List Byte) : (hostFillOut bytes s).reply = s.reply := rfl
@[simp] theorem hostFillOut_host (bytes : List Byte) : (hostFillOut bytes s).host = s.host := rfl
@[simp] theorem hostFillOut_freeDraws (bytes : List Byte) : (hostFillOut bytes s).freeDraws = s.freeDraws := rfl

/-! ### Rows and Jobs through updates -/

@[simp] theorem raise_job (c : ResultCode) (j : Nat) : (raise c s).job j = s.job j := rfl
@[simp] theorem finish_job (c : ResultCode) (v : BitVec 32) (j : Nat) : (finish c v s).job j = s.job j := rfl
@[simp] theorem complete_job (j : Nat) : (complete s).job j = s.job j := rfl
@[simp] theorem storeOut_job (a : Nat) (bs : List Byte) (j : Nat) : (storeOut a bs s).job j = s.job j := rfl
@[simp] theorem setRow_job (r : Nat) (row : Row) (j : Nat) : (setRow r row s).job j = s.job j := rfl
@[simp] theorem retireSlicer_job (j : Nat) : (retireSlicer s).job j = s.job j := rfl
@[simp] theorem raise_row (c : ResultCode) (r : Nat) : (raise c s).row r = s.row r := rfl
@[simp] theorem finish_row (c : ResultCode) (v : BitVec 32) (r : Nat) : (finish c v s).row r = s.row r := rfl
@[simp] theorem complete_row (r : Nat) : (complete s).row r = s.row r := rfl
@[simp] theorem storeOut_row (a : Nat) (bs : List Byte) (r : Nat) : (storeOut a bs s).row r = s.row r := rfl
@[simp] theorem setJob_row (j : Nat) (x : Job) (r : Nat) : (setJob j x s).row r = s.row r := rfl
@[simp] theorem setThresh_row (j : Nat) (v : BitVec 32) (r : Nat) : (setThresh j v s).row r = s.row r := rfl
@[simp] theorem retireSlicer_row (r : Nat) : (retireSlicer s).row r = s.row r := rfl

theorem setJob_job_same (j : Nat) (x : Job) (h : j < s.jobs.length) : (setJob j x s).job j = x := by
  simp [State.job, h]

theorem setJob_job_other (j k : Nat) (x : Job) (h : j ≠ k) : (setJob j x s).job k = s.job k := by
  simp [State.job, List.getD_eq_getElem?_getD, List.getElem?_set_ne h]

theorem setRow_row_same (r : Nat) (row : Row) (h : r < s.pat.length) : (setRow r row s).row r = row := by
  simp [State.row, h]

theorem setRow_row_other (r k : Nat) (row : Row) (h : r ≠ k) : (setRow r row s).row k = s.row k := by
  simp [State.row, List.getD_eq_getElem?_getD, List.getElem?_set_ne h]

end Sys2Proof.Machine
end

