-- ==== Sys2Proof/Laws/Slicer.lean ====
section
/-! SUPPORT. What the slicer's operations can do, said once: the lengths of what they return, and the three endings of a SLICE
on the state. -/

namespace Sys2Proof.Machine

/-! ## Lengths -/

theorem readBits_length {src : SampleSource} {k tr step : Nat} :
    ∀ {n i : Nat} {bits : List Bool}, readBits src k tr step n i = some bits → bits.length = n
  | 0, _, _, h => by
    cases h
    rfl
  | n + 1, i, bits, h => by
    unfold readBits at h
    split at h
    · rename_i b hb
      obtain ⟨tail, htail, rfl⟩ := Option.map_eq_some_iff.mp h
      simp [readBits_length htail]
    · cases h

theorem confirm_matched_length {src : SampleSource} {job : Job} {k tr thresh thresh' : Nat} {bits : List Bool}
    (h : confirm src job k tr thresh = .matched bits thresh') : bits.length = job.payloadBits.toNat ∧ thresh' = thresh := by
  unfold confirm at h
  split at h
  · cases h
  · split at h
    · cases h
    · split at h
      · cases h
      · rename_i hbits
        cases h
        exact ⟨readBits_length hbits, rfl⟩

theorem sliceJob_matched_length {src : SampleSource} {job : Job} {thresh : Nat} {bits : List Bool}
    (h : sliceJob src job = .matched bits thresh) : bits.length = job.payloadBits.toNat := by
  unfold sliceJob at h
  split at h
  · cases h
  · cases h
  · exact (confirm_matched_length h).1

@[simp] theorem pack_length (endian : BitVec 2) (pad : Byte) (bits : List Bool) :
    (pack endian pad bits).length = (bits.length + 7) / 8 := by
  simp [pack]

/-! ## The endings of a SLICE on the state -/

theorem runSlice_of_matched {j base thresh : Nat} {s : State} {bits : List Bool}
    (h : sliceJob (sampleSource s (s.job j) base) (s.job j) = .matched bits thresh) :
    runSlice j base s = (.matched (pack (s.job j).endian (Config.freePad s.freeDraws) bits),
      retireSlicer (setThresh j (BitVec.ofNat 32 thresh) s)) := by
  simp [runSlice, h]

theorem runSlice_of_noMatch {j base : Nat} {s : State}
    (h : sliceJob (sampleSource s (s.job j) base) (s.job j) = .noMatch) :
    runSlice j base s = (.noMatch, retireSlicer s) := by
  simp [runSlice, h]

theorem runSlice_of_overrun {j base : Nat} {s : State}
    (h : sliceJob (sampleSource s (s.job j) base) (s.job j) = .overrun) :
    runSlice j base s = (.overrun, retireSlicer s) := by
  simp [runSlice, h]

/-- Everything a SLICE on the state can do. -/
theorem runSlice_cases (j base : Nat) (s : State) :
    (∃ bits thresh, sliceJob (sampleSource s (s.job j) base) (s.job j) = .matched bits thresh ∧
      runSlice j base s = (.matched (pack (s.job j).endian (Config.freePad s.freeDraws) bits),
        retireSlicer (setThresh j (BitVec.ofNat 32 thresh) s))) ∨
    (sliceJob (sampleSource s (s.job j) base) (s.job j) = .noMatch ∧ runSlice j base s = (.noMatch, retireSlicer s)) ∨
    (sliceJob (sampleSource s (s.job j) base) (s.job j) = .overrun ∧ runSlice j base s = (.overrun, retireSlicer s)) := by
  cases h : sliceJob (sampleSource s (s.job j) base) (s.job j) with
  | matched bits thresh => exact .inl ⟨bits, thresh, rfl, runSlice_of_matched h⟩
  | noMatch => exact .inr (.inl ⟨rfl, runSlice_of_noMatch h⟩)
  | overrun => exact .inr (.inr ⟨rfl, runSlice_of_overrun h⟩)

/-- What a SLICE reads of the state: the registers that no SLICE writes do not change its samples. -/
@[simp] theorem sampleSource_retireSlicer (s : State) (job : Job) (base : Nat) :
    sampleSource (retireSlicer s) job base = sampleSource s job base := rfl

@[simp] theorem sampleSource_setThresh (s : State) (job : Job) (base j : Nat) (v : BitVec 32) :
    sampleSource (setThresh j v s) job base = sampleSource s job base := rfl

/-! ## The SLICE command -/

/-- Everything the SLICE command can do (spec/41_slicer.md rule R170). -/
theorem cmdSlice_cases (a : BitVec 3) (b : BitVec 16) (s : State) :
    (s.njobs.toNat ≤ a.toNat ∧ cmdSlice a b s = raise .badJob s) ∨
    (a.toNat < s.njobs.toNat ∧ s.params.outRecords ≤ b.toNat ∧ cmdSlice a b s = raise .badCmd s) ∨
    (a.toNat < s.njobs.toNat ∧ b.toNat < s.params.outRecords ∧
      ((∃ bytes t, runSlice a.toNat s.staging.addr.toNat s = (.matched bytes, t) ∧
          cmdSlice a b s = finish .ok (BitVec.ofNat 32 bytes.length) (storeOut (recordBase b.toNat + 8) bytes t)) ∨
        (∃ t, runSlice a.toNat s.staging.addr.toNat s = (.noMatch, t) ∧ cmdSlice a b s = finish .noMatch 0 t) ∨
        (∃ t, runSlice a.toNat s.staging.addr.toNat s = (.overrun, t) ∧ cmdSlice a b s = finish .rawOverrun 0 t))) := by
  unfold cmdSlice
  by_cases h1 : s.njobs.toNat ≤ a.toNat
  · exact .inl ⟨h1, if_pos h1⟩
  by_cases h2 : s.params.outRecords ≤ b.toNat
  · exact .inr (.inl ⟨by omega, h2, by rw [if_neg h1, if_pos h2]⟩)
  refine .inr (.inr ⟨by omega, by omega, ?_⟩)
  rw [if_neg h1, if_neg h2]
  rcases runSlice_cases a.toNat s.staging.addr.toNat s with ⟨bits, thresh, -, h⟩ | ⟨-, h⟩ | ⟨-, h⟩
  · exact .inl ⟨_, _, h, by rw [h]⟩
  · exact .inr (.inl ⟨_, h, by rw [h]⟩)
  · exact .inr (.inr ⟨_, h, by rw [h]⟩)

end Sys2Proof.Machine
end

