-- ==== Sys2Proof/Laws/Scheduler.lean ====
section
/-! SUPPORT. What the row walk of DECODE can do, said once: its cases slot by slot, and the induction over a whole walk,
packaged once for every property that the walk's updates keep. -/

namespace Sys2Proof.Machine

variable {cap r left i n : Nat} {s : State}

@[simp] theorem recordHit_pat (v : Slot) (job : Job) (bytes : List Byte) :
    (recordHit r i n v job bytes s).pat = s.pat.set r (hitRow (s.row r) i v) := rfl

@[simp] theorem recordHit_out (v : Slot) (job : Job) (bytes : List Byte) :
    (recordHit r i n v job bytes s).out = s.out.writeBytes (recordBase n) (recordBytes s.geom job r bytes) := rfl

/-! ## One slot (spec/43_scheduler.md rule R233) -/

theorem walkSlots_dangling (hv : isJobSlot (slotAt (s.row r) i) = true)
    (hd : s.njobs.toNat < (slotAt (s.row r) i).toNat) :
    walkSlots cap r (left + 1) i n s = walkSlots cap r left (i + 1) n s := by
  rw [walkSlots, if_pos hv, if_pos hd]

theorem walkSlots_full (hv : isJobSlot (slotAt (s.row r) i) = true)
    (hd : (slotAt (s.row r) i).toNat ≤ s.njobs.toNat) :
    walkSlots n r (left + 1) i n s = (.full, n, s) := by
  rw [walkSlots, if_pos hv, if_neg (by omega), if_pos rfl]

theorem walkSlots_rest (hv : isJobSlot (slotAt (s.row r) i) = false) :
    walkSlots cap r (left + 1) i n s = (.ended, n, setRow r (restRow s.retest (s.row r) i) s) := by
  rw [walkSlots, if_neg (by simp [hv])]

/-- The Job a Job slot refers to. -/
def slotJob (v : Slot) : Nat := v.toNat - 1

/-- The byte address a Job's SLICE starts from on row `r` (spec/20_memory.md rule R72). -/
def jobBase (s : State) (r j : Nat) : Nat := rowBase s.geom r + (s.job j).offset.toNat

theorem walkSlots_tested (hv : isJobSlot (slotAt (s.row r) i) = true)
    (hd : (slotAt (s.row r) i).toNat ≤ s.njobs.toNat) (hn : n ≠ cap) :
    walkSlots cap r (left + 1) i n s =
      match runSlice (slotJob (slotAt (s.row r) i)) (jobBase s r (slotJob (slotAt (s.row r) i))) s with
      | (.overrun, t) => (.overrun, n, t)
      | (.noMatch, t) => walkSlots cap r left (i + 1) n t
      | (.matched bytes, t) =>
        if checkPasses s.params (s.job (slotJob (slotAt (s.row r) i))).id bytes then
          (.ended, n + 1, recordHit r i n (slotAt (s.row r) i) (s.job (slotJob (slotAt (s.row r) i))) bytes t)
        else walkSlots cap r left (i + 1) n t := by
  rw [walkSlots, if_pos hv, if_neg (by omega), if_neg hn]
  rfl

/-! ## A property kept by a whole walk -/

/-- The updates of a walk keep `P`: a SLICE that fails, a SLICE that matches, a hit, and a rest at a non-Job slot. In the
last two every slot in front is a Job slot. -/
structure WalkKeeps (P : State → Prop) : Prop where
  retire : ∀ s, P s → P (retireSlicer s)
  track : ∀ s j base bits thresh, P s → j < s.njobs.toNat →
    sliceJob (sampleSource s (s.job j) base) (s.job j) = .matched bits thresh →
    P (retireSlicer (setThresh j (BitVec.ofNat 32 thresh) s))
  hit : ∀ s r i n j x bytes, P s → i < 8 → j < s.njobs.toNat → slotAt (s.row r) i = BitVec.ofNat 8 (j + 1) →
    (∀ q < i, isJobSlot (slotAt (s.row r) q) = true) →
    x.id = (s.job j).id → bytes.length = ((s.job j).payloadBits.toNat + 7) / 8 → n ≠ outputCap s →
    P (recordHit r i n (slotAt (s.row r) i) x bytes s)
  rest : ∀ s r i, P s → i < 8 → isJobSlot (slotAt (s.row r) i) = false →
    (∀ q < i, isJobSlot (slotAt (s.row r) q) = true) → P (setRow r (restRow s.retest (s.row r) i) s)

theorem setThresh_job_id (s : State) (j k : Nat) (v : BitVec 32) : ((setThresh j v s).job k).id = (s.job k).id := by
  by_cases hjk : j = k
  · subst hjk
    by_cases hj : j < s.jobs.length
    · rw [setThresh, setJob_job_same _ _ _ hj]
    · simp [setThresh, setJob, State.job, List.getD_eq_getElem?_getD, hj]
  · rw [setThresh, setJob_job_other _ _ _ _ hjk]

theorem setThresh_job_payloadBits (s : State) (j k : Nat) (v : BitVec 32) :
    ((setThresh j v s).job k).payloadBits = (s.job k).payloadBits := by
  by_cases hjk : j = k
  · subst hjk
    by_cases hj : j < s.jobs.length
    · rw [setThresh, setJob_job_same _ _ _ hj]
    · simp [setThresh, setJob, State.job, List.getD_eq_getElem?_getD, hj]
  · rw [setThresh, setJob_job_other _ _ _ _ hjk]

theorem isJobSlot_pos {v : Slot} (h : isJobSlot v = true) : 1 ≤ v.toNat := by
  have h' : 0 < v.toInt := of_decide_eq_true h
  rcases Nat.eq_zero_or_pos v.toNat with h0 | h0
  · rw [BitVec.toInt_eq_toNat_cond] at h'
    simp [h0] at h'
  · exact h0

theorem jobRef_slotJob {v : Slot} (h : isJobSlot v = true) : v = BitVec.ofNat 8 (slotJob v + 1) := by
  have := isJobSlot_pos h
  apply BitVec.eq_of_toNat_eq
  rw [BitVec.toNat_ofNat, slotJob, Nat.sub_add_cancel this, Nat.mod_eq_of_lt v.isLt]

theorem WalkKeeps.walkSlots_keeps {P : State → Prop} (h : WalkKeeps P) :
    ∀ {left i n : Nat} {s : State}, i + left = 8 → cap = outputCap s →
      (∀ q < i, isJobSlot (slotAt (s.row r) q) = true) → P s → P (walkSlots cap r left i n s).2.2
  | 0, _, _, _, _, _, _, hP => hP
  | left + 1, i, n, s, hi, hcap, hfront, hP => by
    cases hv : isJobSlot (slotAt (s.row r) i) with
    | false =>
      rw [walkSlots_rest hv]
      exact h.rest s r i hP (by omega) hv hfront
    | true =>
      have hfront' : ∀ q < i + 1, isJobSlot (slotAt (s.row r) q) = true := fun q hq => by
        rcases Nat.lt_succ_iff_lt_or_eq.mp hq with hq | rfl
        · exact hfront q hq
        · exact hv
      by_cases hd : s.njobs.toNat < (slotAt (s.row r) i).toNat
      · rw [walkSlots_dangling hv hd]
        exact h.walkSlots_keeps (by omega) hcap hfront' hP
      have hd' := Nat.le_of_not_lt hd
      by_cases hn : n = cap
      · subst hn
        rw [walkSlots_full hv hd']
        exact hP
      rw [walkSlots_tested hv hd' hn]
      have hj : slotJob (slotAt (s.row r) i) < s.njobs.toNat := by
        have := isJobSlot_pos hv
        unfold slotJob
        omega
      rcases runSlice_cases (slotJob (slotAt (s.row r) i)) (jobBase s r (slotJob (slotAt (s.row r) i))) s with
        ⟨bits, thresh, hs, he⟩ | ⟨-, he⟩ | ⟨-, he⟩
      · have hP' := h.track s _ _ bits thresh hP hj hs
        rw [he]
        dsimp only
        split
        · refine h.hit _ r i n _ _ _ hP' (by omega) hj (jobRef_slotJob hv) hfront ?_ ?_ ?_
          · simp [setThresh_job_id]
          · rw [pack_length, sliceJob_matched_length hs, retireSlicer_job, setThresh_job_payloadBits]
          · exact hcap ▸ hn
        · exact h.walkSlots_keeps (by omega) hcap hfront' hP'
      · rw [he]
        exact h.walkSlots_keeps (by omega) hcap hfront' (h.retire s hP)
      · rw [he]
        exact h.retire s hP

/-- A walk leaves the operands of DECODE alone. -/
theorem walkKeeps_operands (p : Config.Params) (a : Staging) : WalkKeeps fun s => s.params = p ∧ s.staging = a where
  retire _ h := h
  track _ _ _ _ _ h _ _ := h
  hit _ _ _ _ _ _ _ h _ _ _ _ _ _ _ := h
  rest _ _ _ h _ _ _ := h

theorem WalkKeeps.walkRows_keeps {P : State → Prop} (h : WalkKeeps P) :
    ∀ {left r n : Nat} {s : State}, cap = outputCap s → P s → P (walkRows cap left r n s).2.2
  | 0, _, _, _, _, hP => hP
  | left + 1, r, n, s, hcap, hP => by
    have h1 := h.walkSlots_keeps (cap := cap) (r := r) (left := 8) (i := 0) (n := n) rfl hcap (by simp) hP
    have h2 := (walkKeeps_operands s.params s.staging).walkSlots_keeps (cap := cap) (r := r) (left := 8) (i := 0) (n := n)
      rfl hcap (by simp) ⟨rfl, rfl⟩
    rw [walkRows, show Config.maxWays = 8 from rfl]
    rcases he : walkSlots cap r 8 0 n s with ⟨e, n', t⟩
    rw [he] at h1 h2
    cases e with
    | ended =>
      refine h.walkRows_keeps ?_ h1
      rw [hcap, outputCap, outputCap, h2.1, h2.2]
    | full => exact h1
    | overrun => exact h1

/-- Everything DECODE can do at its end (spec/43_scheduler.md rules R231, R247; spec/60_exceptions.md rule R277). -/
theorem cmdDecode_cases (s : State) :
    (s.params.maxLines < rowCount s.geom ∧ cmdDecode s = raise .allocError s) ∨
    (rowCount s.geom ≤ s.params.maxLines ∧ ∃ e n t, walkRows (outputCap s) (rowCount s.geom) 0 0 s = (e, n, t) ∧
      ((e = .overrun ∧ cmdDecode s = finish .rawOverrun (BitVec.ofNat 32 n) t) ∨
        (e ≠ .overrun ∧ cmdDecode s = finishDecode n t))) := by
  unfold cmdDecode
  by_cases h : s.params.maxLines < rowCount s.geom
  · exact .inl ⟨h, if_pos h⟩
  refine .inr ⟨by omega, ?_⟩
  rw [if_neg h]
  rcases he : walkRows (outputCap s) (rowCount s.geom) 0 0 s with ⟨e, n, t⟩
  refine ⟨e, n, t, rfl, ?_⟩
  cases e <;> simp

/-- A property that a walk's updates, the registers of a result and `RETEST` keep holds after DECODE. -/
theorem WalkKeeps.cmdDecode_keeps {P : State → Prop} (h : WalkKeeps P)
    (hresult : ∀ c s, P s → P (raise c s)) (hfinish : ∀ c v s, P s → P (finish c v s))
    (hretest : ∀ (v : BitVec 4) (s : State), P s → P { s with retest := v }) (s : State) (hP : P s) :
    P (cmdDecode s) := by
  rcases cmdDecode_cases s with ⟨-, he⟩ | ⟨-, e, n, t, hw, he⟩
  · rw [he]
    exact hresult _ _ hP
  · have ht : P t := by
      have := h.walkRows_keeps (cap := outputCap s) (left := rowCount s.geom) (r := 0) (n := 0) rfl hP
      rwa [hw] at this
    rcases he with ⟨-, he⟩ | ⟨-, he⟩
    · rw [he]
      exact hfinish _ _ _ ht
    · rw [he]
      exact hfinish _ _ _ (hretest _ _ ht)

end Sys2Proof.Machine
end

