-- ==== Sys2Proof/Laws/Services.lean ====
section
/-! SUPPORT. What JOBADD and RMSVC can do, said once, and the induction over their loops, packaged once. -/

namespace Sys2Proof.Machine

/-! ## JOBADD -/

/-- Everything JOBADD can do (spec/42_config.md rules R201 to R207, spec/60_exceptions.md rule R281). -/
theorem cmdJobadd_cases (s : State) :
    (∃ c, (c = .cfgError ∨ c = .allocError ∨ c = .rejCapacity ∨ c = .rejNoslot) ∧ cmdJobadd s = raise c s) ∨
    (∃ j, jobaddAccepted s.geom s.staging = true ∧ rowCount s.geom ≤ s.params.maxLines ∧ rowsHaveRoom j s = true ∧
      (sharedJob s = some j ∨ (sharedJob s = none ∧ s.njobs ≠ 8 ∧ j = s.njobs.toNat)) ∧
      cmdJobadd s = commitJob j (reserveRows j (stagedRows s.staging) s)) := by
  unfold cmdJobadd
  by_cases h1 : jobaddAccepted s.geom s.staging = true
  · rw [if_neg (by simp [h1])]
    by_cases h2 : s.params.maxLines < rowCount s.geom
    · exact .inl ⟨_, .inr (.inl rfl), if_pos h2⟩
    · rw [if_neg h2]
      cases hs : sharedJob s with
      | some j =>
        by_cases hr : rowsHaveRoom j s = true
        · exact .inr ⟨j, h1, by omega, hr, .inl rfl, by simp [jobaddAt, hr]⟩
        · exact .inl ⟨_, .inr (.inr (.inr rfl)), by simp [jobaddAt, hr]⟩
      | none =>
        by_cases h8 : s.njobs = 8
        · exact .inl ⟨_, .inr (.inr (.inl rfl)), by simp [h8]⟩
        · by_cases hr : rowsHaveRoom s.njobs.toNat s = true
          · refine .inr ⟨_, h1, by omega, hr, .inr ⟨rfl, h8, rfl⟩, ?_⟩
            dsimp only
            rw [if_neg h8, jobaddAt, if_pos hr]
          · refine .inl ⟨_, .inr (.inr (.inr rfl)), ?_⟩
            dsimp only
            rw [if_neg h8, jobaddAt, if_neg hr]
  · exact .inl ⟨_, .inl rfl, by simp [h1]⟩

/-- The slot commit keeps every property that one row's commit keeps. -/
theorem reserveRows_keeps {P : State → Prop} {j : Nat} :
    ∀ {rows : List Nat} {s : State},
      (∀ r ∈ rows, ∀ t, P t → P (setRow r (reserveRow j (t.row r)) t)) → P s → P (reserveRows j rows s)
  | [], _, _, hP => hP
  | r :: rows, s, hstep, hP => reserveRows_keeps (rows := rows) (s := setRow r (reserveRow j (s.row r)) s)
      (fun r' hr' => hstep r' (List.mem_cons_of_mem _ hr')) (hstep r List.mem_cons_self s hP)

/-- The slot commit writes PAT alone. -/
theorem reserveRows_eq (j : Nat) : ∀ (rows : List Nat) (s : State),
    ∃ pat, pat.length = s.pat.length ∧ reserveRows j rows s = { s with pat := pat }
  | [], s => ⟨s.pat, rfl, rfl⟩
  | r :: rows, s => by
    obtain ⟨pat, hlen, he⟩ := reserveRows_eq j rows (setRow r (reserveRow j (s.row r)) s)
    exact ⟨pat, by simpa using hlen, by rw [reserveRows, he]; rfl⟩

/-! ## RMSVC -/

@[simp] theorem removedJobs_length (i n : Nat) (jobs : List Job) : (removedJobs i n jobs).length = 8 := by
  simp [removedJobs, Config.maxJobs]

@[simp] theorem compactRow_length (ref : Slot) (row : Row) : (compactRow ref row).length = 8 := by
  simp [compactRow]

/-- The removal loop keeps every property that one removal keeps. -/
theorem removeLoop_keeps {P : State → Prop} {requested : BitVec 32}
    (hstep : ∀ i s, P s → (s.job i).id &&& requested ≠ 0 → P (removeJob i s)) :
    ∀ {left i : Nat} {s : State}, P s → P (removeLoop requested left i s)
  | 0, _, _, hP => hP
  | left + 1, i, s, hP => by
    unfold removeLoop
    split
    · rename_i hid
      exact removeLoop_keeps hstep (hstep i s hP hid)
    · exact removeLoop_keeps hstep hP

/-- The removal loop writes the Job file, `NJOBS` and PAT alone. -/
theorem removeLoop_eq (requested : BitVec 32) : ∀ (left i : Nat) (s : State),
    ∃ pat jobs njobs, removeLoop requested left i s = { s with pat := pat, jobs := jobs, njobs := njobs }
  | 0, _, s => ⟨s.pat, s.jobs, s.njobs, rfl⟩
  | left + 1, i, s => by
    unfold removeLoop
    split
    · obtain ⟨pat, jobs, njobs, he⟩ := removeLoop_eq requested left i (removeJob i s)
      exact ⟨pat, jobs, njobs, by rw [he]; rfl⟩
    · exact removeLoop_eq requested left (i + 1) s

end Sys2Proof.Machine
end

