-- ==== Sys2Proof/Laws/Step.lean ====
section
/-! SUPPORT. What a step and a register write can do, said once. -/

namespace Sys2Proof.Machine

/-- Everything a step can do: a transaction is executed, or the host does something else at the interface. -/
theorem step_cases {s t : State} (h : step s = .next t) :
    s.seq = .idle ∧
    ((s.host = [] ∧ t = s) ∨
      (∃ w rest, s.host = .transaction w :: rest ∧ exec (decode w) s = .next t) ∨
      (∃ bytes rest, s.host = .fillRaw bytes :: rest ∧ t = complete (hostFillRaw bytes s)) ∨
      (∃ bytes rest, s.host = .fillOut bytes :: rest ∧ t = complete (hostFillOut bytes s)) ∨
      (∃ rest, s.host = .powerOnReset :: rest ∧ t = complete (assertReset s))) := by
  unfold step at h
  split at h
  · rename_i hseq
    refine ⟨hseq, ?_⟩
    split at h
    · rename_i hh
      cases h
      exact .inl ⟨hh, rfl⟩
    · rename_i w rest hh
      exact .inr (.inl ⟨w, rest, hh, h⟩)
    · rename_i bytes rest hh
      cases h
      exact .inr (.inr (.inl ⟨bytes, rest, hh, rfl⟩))
    · rename_i bytes rest hh
      cases h
      exact .inr (.inr (.inr (.inl ⟨bytes, rest, hh, rfl⟩)))
    · rename_i rest hh
      cases h
      exact .inr (.inr (.inr (.inr ⟨rest, hh, rfl⟩)))
  · cases h

/-- Everything a write to `CMD` can do: one of the five commands, or `BAD_CMD`. -/
theorem executeCommand_cases (w : BitVec 32) (s : State) :
    executeCommand w s = cmdReset s ∨ executeCommand w s = cmdJobadd s ∨ executeCommand w s = cmdRmsvc s ∨
    executeCommand w s = cmdDecode s ∨ (∃ a b, executeCommand w s = cmdSlice a b s) ∨
    executeCommand w s = raise .badCmd s := by
  unfold executeCommand
  split
  · exact .inl rfl
  · exact .inr (.inl rfl)
  · exact .inr (.inr (.inl rfl))
  · exact .inr (.inr (.inr (.inl rfl)))
  · rename_i a b _
    exact .inr (.inr (.inr (.inr (.inl ⟨a, b, rfl⟩))))
  all_goals exact .inr (.inr (.inr (.inr (.inr rfl))))

/-- Everything a register write can do (spec/42_config.md rule R190). -/
theorem writeReg_cases (reg : BitVec 7) (data : BitVec 32) (s : State) :
    writeReg reg data s = executeCommand data s ∨ writeReg reg data s = raise .geomLocked s ∨
    (∃ g, s.njobs = 0 ∧ writeReg reg data s = { s with geom := writeGeom s.geom data g }) ∨
    (∃ a, writeReg reg data s = { s with staging := writeStage s.staging data a }) ∨ writeReg reg data s = s := by
  unfold writeReg
  split
  · exact .inl rfl
  · rename_i g _
    by_cases h : s.njobs = 0
    · exact .inr (.inr (.inl ⟨g, h, if_neg (not_not.mpr h)⟩))
    · exact .inr (.inl (if_pos h))
  · rename_i a _
    exact .inr (.inr (.inr (.inl ⟨a, rfl⟩)))
  · exact .inr (.inr (.inr (.inr rfl)))
  · exact .inr (.inr (.inr (.inr rfl)))

/-- Every instruction answers a next state. -/
theorem exec_next (i : Instr) (s : State) : ∃ t, exec i s = .next (complete t) := by
  cases i <;> exact ⟨_, rfl⟩

end Sys2Proof.Machine
end

