-- ==== Sys2Proof/Tests/Slice0.lean ====
section
/-! SUPPORT. The model's own tests. Expected values are the spec's: the words of spec/30_encoding.md rules R90 to R99, the
worked values of spec/40_sample_demux.md and the vectors of spec/95_test_vectors.md, named in each test. The witnesses show,
for every statement with hypotheses, a state and operands that meet them all together. -/

namespace Sys2Proof.Tests

set_option Elab.async false

open Sys2Proof.Machine Sys2Proof.Safety

/-! ## WellFormed: ill-formed terms are refused -/

theorem test_illFormed_reset_word : (Instr.wr 0x7F 1).wellFormed = false := by decide
theorem test_illFormed_slice_word : (Instr.wr 0x7F 0xFFFF0705).wellFormed = false := by decide
theorem test_wellFormed_illegal_word : (Instr.wr 0x7F 0x0805).wellFormed = true := by decide

/-! ## Decoding: words written out bit by bit (R90, R93, R98, R107, R220, R221) -/

theorem test_decode_rd : decode 0b0010010000000000000000000000000000000000 = .rd 0x24 := by decide
theorem test_decode_wr : decode 0b1000001000000000000000000000000010000000 = .wr 2 128 := by decide
theorem test_decode_reset : decode 0b1111111100000000000000000000000000000001 = .reset := by decide
theorem test_decode_jobadd : decode 0b1111111100000000000000000000000000000010 = .jobadd := by decide
theorem test_decode_rmsvc : decode 0b1111111100000000000000000000000000000011 = .rmsvc := by decide
theorem test_decode_decode : decode 0b1111111100000000000000000000000000000100 = .decode := by decide
theorem test_decode_slice : decode 0b1111111100000000000000110000011100000101 = .slice 7 3 := by decide
theorem test_decode_bad : decode 0b1111111100000000000000000000000100000100 = .wr 0x7F 0x104 := by decide
theorem test_decode_too_wide : decodeNumber (2 ^ 40) = .error .widerThanTransaction := by decide
theorem test_decode_table_word : decodeTableWord 40 0xFF00000005 = some (.slice 0 0) := by decide

/-! ## Samples, interpolation, packing, rows -/

/-- A source that holds `bytes`, read from address 0 in format `code`. -/
def source (code : BitVec 8) (bytes : List Byte) : SampleSource :=
  let d := descriptorOrFree code
  { raw := Memory.ofBytes bytes, rawBytes := bytes.length, desc := d, start := d.skip }

/-- The worked values of spec/40_sample_demux.md section 6 and M7. -/
theorem test_samples :
    sample (source 0x20 [0xE0, 0x07]) 0 = some 252 ∧ sample (source 0x21 [0x07, 0xE0]) 0 = some 252 ∧
    sample (source 0x20 [0xB7, 0x5A]) 0 = some 84 ∧ sample (source 0x21 [0xB7, 0x5A]) 0 = some 232 ∧
    sample (source 0x24 [0xE0, 0x03]) 0 = some 248 ∧ sample (source 0x28 [0xC0, 0x07]) 0 = some 248 ∧
    sample (source 0x30 [0xF0, 0x00]) 0 = some 240 ∧ sample (source 0x34 [0x01, 0x0C]) 0 = some 192 ∧
    sample (source 0x40 [0x28]) 0 = some 160 ∧ sample (source 0x41 [0x1C]) 0 = some 224 ∧
    sample (source 0x02 [0x0A, 0x14, 0x1E, 0x28]) 1 = some 30 ∧
    sample (source 0x04 [0x0A, 0x14, 0x1E, 0x28]) 1 = some 40 ∧
    sample (source 0x10 [1, 2, 3, 4, 5, 6]) 1 = some 5 := by decide

/-- M10, M11: a unit that is not wholly inside RAW is the fault. -/
theorem test_sample_overrun :
    sample (source 0x01 [1, 2, 3, 4]) 4 = none ∧ sample { source 0x20 [1, 2, 3, 4] with start := 3 } 0 = none := by decide

/-- Spec/95_test_vectors.md section 2: the ticks between 16 and 200, between 200 and 16, and the rounding. -/
theorem test_ticks :
    (List.range 4).map (tickLevel 16 200) = [16, 62, 108, 154] ∧
    (List.range 4).map (tickLevel 200 16) = [200, 154, 108, 62] ∧
    (List.range 4).map (tickLevel 0 2) = [0, 1, 1, 2] ∧
    level256 (source 0x01 [16, 200]) 0 128 = some 27648 := by decide

/-- S1: the threshold after the edges at samples 9, 13 and 17. -/
theorem test_threshold :
    trackThreshold 53760 105 16 200 = 37384 ∧ trackThreshold 37384 73 200 16 = 60752 ∧
    trackThreshold 60752 118 16 200 = 41984 := by decide

/-- The vector "Pack" of spec/95_test_vectors.md, the undefined bits shown 0. -/
theorem test_pack :
    pack 1 0 [true, true, true, false, false, true, false, true] = [0xA7] ∧
    pack 0 0 [true, true, true, false, false, true, false, true] = [0xE5] ∧
    pack 3 0 [true, true, true, false, false, true, false, true, true, false, true, true] = [0xA7, 0x0D] ∧
    pack 2 0 [true, true, true, false, false, true, false, true, true, false, true, true] = [0xE5, 0xB0] := by decide

/-- R71's example: sequential and interlaced rows of 128 bytes, 3 rows of field 0 and 2 of field 1. -/
theorem test_rowBase :
    let g (flags : BitVec 2) : Geometry := { State.reset.geom with bpl := 128, count0 := 3, count1 := 2, flags := flags }
    (List.range 5).map (rowBase (g 0)) = [0, 128, 256, 384, 512] ∧
    (List.range 5).map (rowBase (g 1)) = [0, 256, 512, 128, 384] := by decide

/-- R209's example. -/
theorem test_compact : compactRow (jobRef 0) [1, 2, 0, 0, 0, 0, 0, 0x80] = [1, 0, 0, 0, 0, 0, 0x80, 0] := by decide

/-- DV3, DECODE 129 and 144: Blank promotion, then rotation. -/
theorem test_blank_promotion :
    restRow 1 [1, 2, 3, 4, 5, 6, 7, 0] 7 = [0, 2, 3, 4, 5, 6, 7, 1] ∧
    restRow 0 [0, 2, 3, 4, 5, 6, 7, 1] 0 = [2, 3, 4, 5, 6, 7, 1, 0] := by decide

/-! ## One step of every instruction -/

/-- The base setup `B(1)` of spec/95_test_vectors.md, before its JOBADD. -/
def staged : State :=
  { State.resetOf { maxLines := 2, outRecords := 4, rejected := [] } with
    geom := { pixfmt := 1, rate := 4000000, bpl := 128, offset := 0, start0 := 10, start1 := 0, count0 := 1, count1 := 0,
              flags := 2, scan := 525 }
    staging := { id := 0x10, group := 0, offset := 0, criFrc := 0x2AD, criMask := 0xFF, bits := 0x0208, criRate := 1000000,
                 bitRate := 1000000, payload := 8, rows0 := 0x00010000, rows1 := 0, outCap := 1, addr := 0 } }

/-- `JOB[0]` after `B(1)`, as spec/95_test_vectors.md lists it. -/
def jobB : Job :=
  { id := 0x10, offset := 0, pf := 1, rate := 4000000, lineSamples := 128, cri := 0xAB, criMask := 0xFF, criBits := 8,
    criRate := 1000000, frc := 1, frcBits := 2, payloadBits := 8, bitRate := 1000000, modulation := 0, osRate := 16000000,
    thresh := 53760, step := 1024, phaseShift := 1152, skip := 0, endian := 1, criSamples := 88 }

/-- The bytes of `Line(1, 0xA7)`: S1. -/
def line : List Byte :=
  List.replicate 10 0x10
    ++ ([true, false, true, false, true, false, true, true, false, true, true, true, true, false, false, true, false, true].flatMap
        fun b => List.replicate 4 (if b then 0xC8 else 0x10))
    ++ List.replicate 46 0x10

/-- The state after `B(1)` with `Line(1, 0xA7)` in RAW. -/
def ready : State :=
  { staged with
    services := 0x10, njobs := 1, jobs := jobB :: List.replicate 7 Job.zero
    pat := [[1, 0, 0, 0, 0, 0, 0, 0x80], blankRow], raw := Memory.ofBytes line, rawBytes := 128 }

/-- What a step leaves, as a list of numbers, for a test to compare. -/
def observe (view : State → List Nat) (nbits w : Nat) (s : State) : List Nat :=
  match step (s.withFetchWord nbits w) with
  | .next t => view t
  | .fault _ => []
  | .refused _ => []

/-- R221's example and K8: `RD RETEST` after reset, `RD 0x0A`. -/
theorem test_rd :
    observe (fun t => [(t.reply.getD 9).toNat]) 40 0x2400000000 State.reset = [1] ∧
    observe (fun t => [(t.reply.getD 9).toNat]) 40 0x0A00000000 staged = [0] := by decide +kernel

/-- R220's example and K7: `WR G_BPL, 256` without and with a Job. -/
theorem test_wr :
    observe (fun t => [t.geom.bpl.toNat, t.result.toNat]) 40 0x8200000100 staged = [256, 0] ∧
    observe (fun t => [t.geom.bpl.toNat, t.result.toNat]) 40 0x8200000100 ready = [128, 6] := by decide +kernel

/-- K8: `WR CMD, 0x104` is `BAD_CMD`. -/
theorem test_wr_bad_command : observe (fun t => [t.result.toNat, t.retest.toNat]) 40 0xFF00000104 ready = [7, 1] := by
  decide +kernel

/-- K9. -/
theorem test_reset :
    observe (fun t => [t.result.toNat, t.value.toNat, t.njobs.toNat, t.services.toNat, (slotAt (t.row 0) 0).toNat,
      t.retest.toNat, t.geom.bpl.toNat, t.staging.id.toNat]) 40 0xFF00000001 { ready with retest := 2 }
      = [0, 0, 0, 0, 0, 2, 128, 16] := by decide +kernel

/-- `B(1)`: the Job, its slot and the status. -/
theorem test_jobadd :
    (match step (staged.withFetchWord 40 0xFF00000002) with
     | .next t => (t.job 0, t.row 0, t.njobs, t.services, t.result, t.value)
     | _ => (Job.zero, [], 0, 0, 9, 9))
      = (jobB, [1, 0, 0, 0, 0, 0, 0, 0x80], 1, 0x10, 0, 0) := by decide +kernel

/-- K2: `G_PIXFMT = 0x12`. -/
theorem test_jobadd_unknown_format :
    observe (fun t => [t.result.toNat, t.njobs.toNat]) 40 0xFF00000002
      { staged with geom := { staged.geom with pixfmt := 0x12 } } = [4, 0] := by decide +kernel

/-- K6, the first RMSVC: ids 1, 2, 4, `A_ID = 2`. -/
theorem test_rmsvc :
    (match step ({ staged with
        staging := { staged.staging with id := 2 }, njobs := 3, services := 7
        jobs := [{ jobB with id := 1 }, { jobB with id := 2, frc := 2 }, { jobB with id := 4, frc := 3 }]
          ++ List.replicate 5 Job.zero
        pat := [[1, 2, 3, 0, 0, 0, 0, 0x80], [1, 3, 0, 0, 0, 0, 0, 0x80]] }.withFetchWord 40 0xFF00000003) with
     | .next t => (t.value, t.njobs, (t.job 1).id, (t.job 1).frc, t.pat)
     | _ => (0, 0, 0, 0, []))
      = (5, 2, 4, 3, [[1, 2, 0, 0, 0, 0, 0x80, 0], [1, 2, 0, 0, 0, 0, 0, 0x80]]) := by decide +kernel

set_option maxRecDepth 100000 in
/-- R254's example: the record, the row, the retest counter and the threshold. -/
theorem test_decode :
    observe (fun t => [t.result.toNat, t.value.toNat, t.retest.toNat, (slotAt (t.row 0) 7).toNat, (t.job 0).thresh.toNat]
      ++ (List.range 9).map fun a => (t.out.read a).toNat) 40 0xFF00000004 ready
      = [0, 1, 2, 0x80, 44744, 0x10, 0, 0, 0, 0x0A, 0, 0, 0, 0xA7] := by decide +kernel

set_option maxRecDepth 100000 in
/-- DV5: `CHECK` fails, the threshold is kept, the slot is a miss. -/
theorem test_decode_check :
    observe (fun t => [t.result.toNat, t.value.toNat, (slotAt (t.row 0) 7).toNat, (t.job 0).thresh.toNat]) 40 0xFF00000004
      { ready with params := { ready.params with rejected := [(0x10, [0xA7])] } } = [0, 0, 0x81, 44744] := by decide +kernel

set_option maxRecDepth 100000 in
/-- S1. -/
theorem test_slice :
    observe (fun t => [t.result.toNat, t.value.toNat, (t.out.read 8).toNat, (t.job 0).thresh.toNat]) 40 0xFF00000005 ready
      = [0, 1, 0xA7, 44744] := by decide +kernel

set_option maxRecDepth 100000 in
/-- S16, its second SLICE on one row: the search leaves RAW, the threshold is restored, OUT is untouched. -/
theorem test_slice_overrun :
    observe (fun t => [t.result.toNat, t.value.toNat, t.out.cells.length, (t.job 0).thresh.toNat]) 40 0xFF00030005
      { ready with staging := { ready.staging with addr := 72 } } = [8, 0, 0, 53760] := by decide +kernel

/-- A catalogue entry with line ranges and no signal, requested, on the geometry of `B(1)`. -/
def marker : Config.ServiceEntry :=
  { id := 0x20, scan525 := true, scan625 := false, first0 := 10, first1 := 0, last0 := 10, last1 := 0, offsetNs := 0,
    criRate := 1, bitRate := 1, criFrc := 0, criMask := 0, criBits := 0, frcBits := 0, payloadBits := 0, modulation := 0,
    group := 0 }

/-- R217: the entry never reaches JOBADD. -/
theorem test_marker_not_added (hp : Config.HostParams) : acceptEntry hp staged.geom 0xFFFFFFFF 0 marker = none := by
  have marked : carriesNoSignal marker = true := by decide
  simp [acceptEntry, marked]

/-- A catalogue entry with the operands of `B(1)`, on line 10 of field 0. -/
def service : Config.ServiceEntry :=
  { marker with id := 0x10, offsetNs := 12000, criRate := 1000000, bitRate := 1000000, criFrc := 0x2AD, criMask := 0xFF,
                criBits := 8, frcBits := 2, payloadBits := 8 }

/-- A catalogue of the two entries, with margins that `service` meets to the nanosecond: its signal takes 18000 ns, and 128
pixels take 32000 ns. -/
def catalogue : Config.HostParams :=
  { table := [marker, service], winMarginNs := 2000, lenMarginNs := 14000, burstEnd525 := 11000, burstEnd625 := 0, refRate := 1 }

/-- R210: ADDSVC writes the operands of `B(1)`, adds its Job and grants it; with a wider margin it adds nothing (R213). -/
theorem test_addsvc :
    (let out := addsvcProcedure catalogue 0xFFFFFFFF 1 staged
     (out.2, out.1.job 0, out.1.staging)) = (.services 0x10 0x10, jobB, staged.staging) ∧
    (addsvcProcedure { catalogue with lenMarginNs := 14001 } 0xFFFFFFFF 1 staged).2 = .services 0 0 := by decide +kernel

/-! ## Witnesses: the hypotheses of the statements can be met -/

/-- A Job that matches any line at once: `cri_mask = 0`, a CRI bit at every tick, no FRC, 8 payload bits at one sample each. -/
def hitJob : Job :=
  { id := 1, offset := 0, pf := 1, rate := 1, lineSamples := 16, cri := 0, criMask := 0, criBits := 0, criRate := 4, frc := 0,
    frcBits := 0, payloadBits := 8, bitRate := 1, modulation := 0, osRate := 4, thresh := 53760, step := 256,
    phaseShift := 288, skip := 0, endian := 1, criSamples := 8 }

/-- The same with a framing code that a blank line does not carry. -/
def missJob : Job := { hitJob with id := 2, frc := 1, frcBits := 1, criSamples := 7 }

/-- Two Jobs on a frame of two rows: row 0 tries the missing Job first, row 1 the matching one. The host issues DECODE. -/
def mini : State :=
  { State.resetOf { maxLines := 2, outRecords := 4, rejected := [] } with
    geom := { pixfmt := 1, rate := 1, bpl := 16, offset := 0, start0 := 10, start1 := 0, count0 := 2, count1 := 0, flags := 0,
              scan := 0 }
    staging := { State.reset.staging with outCap := 4, id := 2 }
    njobs := 2, services := 3, jobs := [hitJob, missJob] ++ List.replicate 6 Job.zero
    pat := [[2, 1, 0, 0, 0, 0, 0, 0x80], [1, 0, 0, 0, 0, 0, 0, 0x80]], rawBytes := 35
    host := [.transaction 0xFF00000004] }

/-- `mini` with row 0 replaced. -/
def miniRow (row : Row) : State := { mini with pat := [row, blankRow] }

/-- A row of 8 slots, for a state of 2 rows, keeps the shapes. -/
theorem shapeOk_miniRow (row : Row) (h : row.length = 8) : ShapeOk (miniRow row) where
  jobs := rfl
  njobs := show (2 : Nat) ≤ 8 by omega
  pat := rfl
  rows := fun q hq => by
    have hq' : q ∈ [row, blankRow] := hq
    rcases List.mem_pair.mp hq' with rfl | rfl
    · exact h
    · decide

theorem shapeOk_mini : ShapeOk mini := ⟨by decide, by decide, by decide, by decide⟩
theorem shapeOk_staged : ShapeOk staged := ⟨by decide, by decide, by decide, by decide⟩
theorem shapeOk_ready : ShapeOk ready := ⟨by decide, by decide, by decide, by decide⟩

theorem test_hit_matches : sliceOn mini 0 0 = .matched (List.replicate 8 false) 53760 := by decide +kernel
theorem test_miss_misses : sliceOn mini 0 1 = .noMatch := by decide +kernel
theorem test_short_raw_overruns : sliceOn { mini with rawBytes := 4 } 0 0 = .overrun := by decide +kernel

/-! ### Encoding and steps -/

/-- DecodeOfEncode, at the operands' extreme values. -/
theorem witness_decodeOfEncode :
    (Instr.rd 0x7F).wellFormed = true ∧ (Instr.wr 0x7F 0).wellFormed = true ∧ (Instr.slice 7 0xFFFF).wellFormed = true := by
  decide

/-- IllegalCommandWord and SliceRefusals: each of the three disjuncts, at its boundaries. -/
theorem witness_illegalWord :
    IllegalWord 0 ∧ IllegalWord 6 ∧ IllegalWord 0x104 ∧ IllegalWord 0x10001 ∧ IllegalWord 0x805 ∧
    ¬ IllegalWord 0x705 ∧ ¬ IllegalWord 4 := by
  simp [IllegalWord]

/-- StepRunsDecodedInstruction. -/
theorem witness_stepRuns :
    (ready.withFetchWord 40 0xFF00000004).seq = .idle ∧
    (ready.withFetchWord 40 0xFF00000004).host = .transaction 0xFF00000004 :: [] ∧ decode 0xFF00000004 = .decode := by decide

/-- EveryStepGoesOn, AddsvcReturnsServices, ParamsStoresGeometry, RemoveServicesReturnsRest. -/
theorem witness_idle : State.reset.seq = .idle ∧ State.reset.host = [] ∧ State.reset.njobs = 0 ∧ ShapeOk ready ∧
    ready.seq = .idle := ⟨rfl, rfl, rfl, shapeOk_ready, rfl⟩

/-- PowerOnResetValues, FillRawThenRead. -/
theorem witness_hostActions :
    ({ ready with host := [.powerOnReset] }).seq = .idle ∧ ({ ready with host := [.powerOnReset] }).host = .powerOnReset :: [] ∧
    ({ ready with host := [.fillRaw [1, 2]] }).host = .fillRaw [1, 2] :: [] ∧ 1 < [1, 2].length ∧
    ({ ready with host := [.fillOut [1, 2]] }).seq = .idle ∧ ({ ready with host := [.fillOut [1, 2]] }).out.wf = true ∧
    ({ ready with host := [.fillOut [1, 2]] }).host = .fillOut [1, 2] :: [] := by decide

/-! ### Registers and configuration -/

/-- ReadRegister, WriteRegister, ReadAfterWrite, GeometryWriteLocked: the ends of every range of numbers. -/
theorem witness_registers :
    staged.njobs = 0 ∧ ready.njobs ≠ 0 ∧
    (0x09 : BitVec 7).toNat ≤ 0x09 ∧ (0x0A ≤ (0x0A : BitVec 7).toNat ∧ (0x0A : BitVec 7).toNat ≤ 0x0F) ∧
    (0x0A ≤ (0x0F : BitVec 7).toNat ∧ (0x0F : BitVec 7).toNat ≤ 0x0F) ∧
    (0x10 ≤ (0x10 : BitVec 7).toNat ∧ (0x10 : BitVec 7).toNat ≤ 0x1C) ∧
    (0x10 ≤ (0x1C : BitVec 7).toNat ∧ (0x1C : BitVec 7).toNat ≤ 0x1C) ∧
    (0x1D ≤ (0x1D : BitVec 7).toNat ∧ (0x1D : BitVec 7).toNat ≤ 0x1F) ∧
    (0x1D ≤ (0x7E : BitVec 7).toNat ∧ (0x7E : BitVec 7).toNat ≤ 0x7E) ∧ 0x25 ≤ (0x25 : BitVec 7).toNat ∧
    (0x00 : BitVec 7) ≠ 0x7F := by decide

theorem jobaddConditions_staged : JobaddConditions staged := by constructor <;> decide +kernel

/-- With no Job there is none to share. -/
theorem not_shares_staged (i : Nat) : ¬ Shares staged i := fun h => absurd h.1 (Nat.not_lt_zero i)

/-- JobaddFailures, first clause: `A_ID = 0`. -/
theorem witness_cfgError :
    ShapeOk { staged with staging := { staged.staging with id := 0 } } ∧
    ¬ JobaddConditions { staged with staging := { staged.staging with id := 0 } } :=
  ⟨⟨by decide, by decide, by decide, by decide⟩, fun h => h.id rfl⟩

/-- JobaddFailures, second clause: one row more than PAT has. -/
theorem witness_allocError :
    let s := { staged with geom := { staged.geom with count0 := 3 } }
    ShapeOk s ∧ JobaddConditions s ∧ s.params.maxLines < frameRows s :=
  ⟨⟨by decide, by decide, by decide, by decide⟩, by constructor <;> decide +kernel, by decide⟩

/-- `staged` with `n` Jobs of identifier 0x10 and the row given. -/
def crowded (n : Nat) (row : Row) : State :=
  { staged with njobs := BitVec.ofNat 4 n, jobs := List.replicate n jobB ++ List.replicate (8 - n) Job.zero, pat := [row, row] }

/-- JobaddFailures, third clause: 8 Jobs and none shareable. -/
theorem witness_capacity :
    let s := crowded 8 [1, 0, 0, 0, 0, 0, 0, 0]
    ShapeOk s ∧ JobaddConditions s ∧ frameRows s ≤ s.params.maxLines ∧ (∀ i, ¬ Shares s i) ∧ s.njobs = 8 := by
  refine ⟨⟨by decide, by decide, by decide, by decide⟩, by constructor <;> decide +kernel, by decide, fun i h => ?_, by decide⟩
  have none_shared : ∀ k < 8, ¬ (((crowded 8 [1, 0, 0, 0, 0, 0, 0, 0]).job k).id ||| staged.staging.id)
      &&& ~~~staged.staging.group = 0 := by decide
  exact none_shared i h.1 h.2

/-- JobaddFailures, fourth clause: a row of 7 Jobs has one slot left. -/
theorem witness_noSlot :
    let s := crowded 7 [1, 2, 3, 4, 5, 6, 7, 0x80]
    ShapeOk s ∧ JobaddConditions s ∧ frameRows s ≤ s.params.maxLines ∧ Selected s 7 ∧ named s 0 ∧ roomOn s 7 0 ≤ 1 := by
  refine ⟨⟨by decide, by decide, by decide, by decide⟩, by constructor <;> decide +kernel, by decide,
    Or.inr ⟨fun i h => ?_, by decide, by decide⟩, Or.inl ⟨by decide, by decide⟩, by decide⟩
  have none_shared : ∀ k < 7, ¬ (((crowded 7 [1, 2, 3, 4, 5, 6, 7, 0x80]).job k).id ||| staged.staging.id)
      &&& ~~~staged.staging.group = 0 := by decide
  exact none_shared i h.1 h.2

/-- `staged` names row 0 alone. -/
theorem named_staged (r : Nat) (h : named staged r) : r = 0 := by
  have e0 : staged.staging.rows0.toNat % 65536 + staged.staging.rows0.toNat / 65536 = 1 := by decide
  have e1 : staged.staging.rows1.toNat % 65536 + staged.staging.rows1.toNat / 65536 = 0 := by decide
  rcases h with h | h
  · have := h.2
    omega
  · have := h.2
    omega

/-- JobaddCommitsJob, JobaddReservesSlots: a new Job, its row named, the other row not. -/
theorem witness_jobadd_new :
    ShapeOk staged ∧ JobaddConditions staged ∧ Selected staged 0 ∧ frameRows staged ≤ staged.params.maxLines ∧ named staged 0 ∧ ¬ named staged 1 ∧
    (∀ r, named staged r → 2 ≤ roomOn staged 0 r) ∧ descriptorOf staged.geom.pixfmt = some (byteSample 1 0 0 8) ∧
    isJobSlot (slotAt (staged.row 0) 0) = false := by
  refine ⟨shapeOk_staged, jobaddConditions_staged, Or.inr ⟨not_shares_staged, by decide, rfl⟩, by decide,
    Or.inl ⟨by decide, by decide⟩, fun h => absurd (named_staged 1 h) (by decide), fun r h => ?_, by decide, by decide⟩
  cases named_staged r h
  decide

/-- JobaddCommitsJob, JobaddReservesSlots: a shared Job whose row already holds it. -/
theorem witness_jobadd_shared :
    let s := { ready with staging := { ready.staging with group := 0x10 } }
    ShapeOk s ∧ JobaddConditions s ∧ frameRows s ≤ s.params.maxLines ∧ Selected s 0 ∧ named s 0 ∧
    (∀ r, named s r → 2 ≤ roomOn s 0 r) ∧ descriptorOf s.geom.pixfmt = some (byteSample 1 0 0 8) ∧
    slotAt (s.row 0) 0 = BitVec.ofNat 8 (0 + 1) := by
  refine ⟨⟨by decide, by decide, by decide, by decide⟩, by constructor <;> decide +kernel, by decide,
    Or.inl ⟨⟨by decide, by decide⟩, fun i h => absurd h (Nat.not_lt_zero i)⟩, Or.inl ⟨by decide, by decide⟩, fun r h => ?_,
    by decide, by decide⟩
  cases named_staged r h
  decide

/-- RmsvcCompactsRows: nothing requested. -/
theorem witness_rmsvc_none :
    let s := { mini with staging := { mini.staging with id := 8 } }
    ShapeOk s ∧ ∀ j < s.njobs.toNat, (s.job j).id &&& s.staging.id = 0 :=
  ⟨⟨by decide, by decide, by decide, by decide⟩, by decide⟩

/-- RmsvcKeepsUnrequestedJobs, RmsvcCompactsRows: `mini` asks for the service of Job 1 alone. -/
theorem witness_rmsvc :
    ShapeOk mini ∧ (∀ j, mini.njobs.toNat ≤ j → mini.job j = Job.zero) ∧ 1 < mini.njobs.toNat ∧
    ∀ j < mini.njobs.toNat, (mini.job j).id &&& mini.staging.id ≠ 0 ↔ j = 1 := by
  refine ⟨shapeOk_mini, fun j h => ?_, by decide, by decide⟩
  have h2 : 2 ≤ j := h
  by_cases h8 : j < 8
  · have all : ∀ k < 8, 2 ≤ k → mini.job k = Job.zero := by decide
    exact all j h8 h2
  · exact List.getD_eq_default _ _ (by simpa [mini] using h8)

/-! ### Invariants -/

/-- RmsvcReferencesFollowJobs, StepKeepsPat: a state with Jobs on every row. -/
theorem witness_patOk : PatOk mini := by
  refine ⟨shapeOk_mini, fun row h => ?_⟩
  have hrow : row ∈ [[2, 1, 0, 0, 0, 0, 0, 0x80], [1, 0, 0, 0, 0, 0, 0, 0x80]] := h
  rcases List.mem_pair.mp hrow with rfl | rfl
  · exact ⟨by decide, by decide, ⟨2, by decide, by decide⟩, ⟨2, by decide, Or.inl (by decide)⟩, by decide⟩
  · exact ⟨by decide, by decide, ⟨1, by decide, by decide⟩, ⟨1, by decide, Or.inl (by decide)⟩, by decide⟩

/-- StepKeepsPat, StepKeepsThresholds, StepKeepsServices, StepKeepsMemories: the step of `mini` answers a next state. -/
theorem witness_invariants :
    (∃ t, step mini = .next t) ∧ PatOk mini ∧ ThresholdsOk mini ∧ ServicesOk mini ∧ MemoriesOk mini :=
  ⟨⟨_, rfl⟩, witness_patOk, ⟨shapeOk_mini, by decide, by decide⟩, ⟨shapeOk_mini, by decide, witness_rmsvc.2.1⟩,
    ⟨by decide, by decide, fun _ _ => rfl⟩⟩

/-- The two Jobs of `mini` are as JOBADD configures them. -/
theorem jobConfigured_mini : JobConfigured mini.geom hitJob (byteSample 1 0 0 8) ∧
    JobConfigured mini.geom missJob (byteSample 1 0 0 8) := by
  have shift : (288 : ℤ) = ⌊(128 * (1 : ℕ) / (4 : ℕ) + 128 * (1 : ℕ) / (1 : ℕ) + 128 : ℚ)⌋ := by norm_num
  refine ⟨?_, ?_⟩ <;> constructor <;> first | decide | exact shift

/-- DecodeNeverOverruns, StepKeepsJobs: Jobs that are configured, and RAW padded as R314 says, to the byte. -/
theorem witness_jobsOk :
    (∃ t, step mini = .next t) ∧ JobsOk mini ∧ frameRows mini ≤ mini.params.maxLines ∧
    ∀ j < mini.njobs.toNat, ∀ d, descriptorOf (mini.job j).pf = some d → ∀ r < frameRows mini,
      rowBase mini.geom r + mini.geom.bpl.toNat + d.stride * (2 + (mini.job j).phaseShift.toNat / 256) ≤ mini.rawBytes := by
  refine ⟨⟨_, rfl⟩, ⟨shapeOk_mini, fun j h => ⟨byteSample 1 0 0 8, ?_⟩, by decide⟩, by decide, fun j h d hd r hr => ?_⟩
  · have h2 : j < 2 := h
    rcases (by omega : j = 0 ∨ j = 1) with rfl | rfl
    · exact jobConfigured_mini.1
    · exact jobConfigured_mini.2
  · have h2 : j < 2 := h
    have hr2 : r < 2 := hr
    rcases (by omega : j = 0 ∨ j = 1) with rfl | rfl <;> rcases (by omega : r = 0 ∨ r = 1) with rfl | rfl <;>
      (cases (show some (byteSample 1 0 0 8) = some d from hd); decide)

/-! ### Samples and slicing -/

/-- UnitBytes: each clause at the last address it holds for. -/
theorem witness_units :
    (source 0x01 [1, 2]).desc.wide = false ∧ 1 + 1 ≤ (source 0x01 [1, 2]).rawBytes ∧
    (source 0x21 [1, 2]).desc.wide = true ∧ (source 0x21 [1, 2]).desc.be = true ∧ 0 + 2 ≤ (source 0x21 [1, 2]).rawBytes ∧
    (source 0x20 [1, 2]).desc.wide = true ∧ (source 0x20 [1, 2]).desc.be = false ∧
    (source 0x20 [1, 2]).rawBytes < 1 + (source 0x20 [1, 2]).desc.unitBytes ∧
    (source 0x01 [1, 2]).rawBytes < 2 + (source 0x01 [1, 2]).desc.unitBytes := by decide

/-- DescriptorsOfCodes: the first and the last line of the table, and a code that has none. UnitBytes: a Job with a descriptor
and its skip. -/
theorem witness_descriptors :
    ((0x01 : BitVec 8).toNat, 1, 0, 1, 0, 0, 8) ∈ descriptorTable ∧ ((0x41 : BitVec 8).toNat, 1, 0, 1, 0, 2, 3) ∈ descriptorTable ∧
    descriptorOf 0x42 = none ∧ descriptorOf hitJob.pf = some (byteSample 1 0 0 8) ∧ hitJob.skip.toNat = (byteSample 1 0 0 8).skip := by
  decide

/-- ChannelLeftAligned, Interpolation, SearchOneSample: samples there are and are not. -/
theorem witness_samples :
    descriptorOf 0x41 = some (byteSample 1 0 2 3) ∧ sample (source 0x01 [16, 200]) (0 + 255 / 256) = some 16 ∧
    sample (source 0x01 [16, 200]) (0 + 255 / 256 + 1) = some 200 ∧ sample (source 0x01 [16, 200]) (1 + 0 / 256) = some 200 ∧
    sample (source 0x01 [16, 200]) (1 + 0 / 256 + 1) = none ∧
    sample (source 0x01 [16, 200]) 2 = none ∧ sample (source 0x01 [16, 200]) (2 + 1) = none := by decide

/-- SearchOneSample: the first and the second sample outside RAW, and no sample left to search. -/
theorem test_search_ends :
    search (source 0x01 [16, 200]) hitJob 3 1 53760 Pll.start = .overrun ∧
    search (source 0x01 [16, 200]) hitJob 3 2 53760 Pll.start = .overrun ∧
    search (source 0x01 [16, 200]) hitJob 0 0 53760 Pll.start = .exhausted := by decide +kernel

/-- ThresholdUpdateStaysInBounds at both ends; PllTick, each clause at its boundary. -/
theorem witness_tracking :
    0 < 195585 ∧ 195584 < 195585 ∧ true ≠ Pll.start.b1 ∧
    Pll.start.cl + ({ hitJob with criRate := 3 } : Job).criRate.toNat < hitJob.osRate.toNat ∧
    hitJob.osRate.toNat ≤ Pll.start.cl + hitJob.criRate.toNat ∧ 1 ≤ hitJob.osRate.toNat ∧
    hitJob.criRate.toNat ≤ hitJob.osRate.toNat ∧ 7 < hitJob.osRate.toNat + hitJob.criRate.toNat := by decide

/-- MatchMeansFramed, SliceMatchStoresPayload, SliceFailureRestoresJob: Job 0 matches at address 0, Job 1 does not. -/
theorem witness_slice :
    mini.jobs.length = 8 ∧ mini.out.wf = true ∧ (0 : BitVec 3).toNat < mini.njobs.toNat ∧ (3 : BitVec 16).toNat < mini.params.outRecords ∧
    (1 : BitVec 3).toNat < mini.njobs.toNat ∧
    sliceJob (sampleSource mini (mini.job 0) mini.staging.addr.toNat) (mini.job 0) = .matched (List.replicate 8 false) 53760 ∧
    sliceJob (sampleSource mini (mini.job 1) mini.staging.addr.toNat) (mini.job 1) = .noMatch := by decide +kernel

/-- SliceFailureRestoresJob, the fault: RAW ends inside the search. -/
theorem witness_slice_overrun :
    let s := { mini with rawBytes := 4 }
    (0 : BitVec 3).toNat < s.njobs.toNat ∧ (3 : BitVec 16).toNat < s.params.outRecords ∧
    sliceJob (sampleSource s (s.job 0) s.staging.addr.toNat) (s.job 0) = .overrun := by decide +kernel

/-- MatchMeansFramed, the ending clauses: the search ends at sample 0; the framing code and the payload of Job 0 read 0, the
framing bit of Job 1 is wrong, a search with nothing to examine, and RAW that ends inside the payload. -/
theorem witness_endings :
    search (sampleSource mini hitJob 0) hitJob 8 0 53760 Pll.start = .found 0 105 53760 ∧
    (∀ n < 8, bitAt (sampleSource mini hitJob 0) 0 105 (288 + (0 + n) * 256) = some ((List.replicate 8 false).getD n false)) ∧
    hitJob.frc.toNat < 2 ^ hitJob.frcBits.toNat ∧
    bitAt (sampleSource mini missJob 0) 0 105 (288 + 0 * 256) = some (!(missJob.frc.toNat.testBit (1 - 1 - 0))) ∧
    search (sampleSource mini hitJob 0) hitJob 0 0 53760 Pll.start = .exhausted ∧
    search (sampleSource { mini with rawBytes := 1 } hitJob 0) hitJob 8 0 53760 Pll.start = .overrun ∧
    search (sampleSource { mini with rawBytes := 4 } hitJob 0) hitJob 8 0 53760 Pll.start = .found 0 105 53760 ∧
    bitAt (sampleSource { mini with rawBytes := 4 } hitJob 0) 0 105 (288 + (0 + 7) * 256) = none ∧
    bitAt (sampleSource { mini with rawBytes := 2 } missJob 0) 0 105 (288 + 0 * 256) = none := by decide +kernel

/-- SliceRefusals: a Job index and a record index just past the end. -/
theorem witness_slice_refusals :
    mini.njobs.toNat ≤ (2 : BitVec 3).toNat ∧ (1 : BitVec 3).toNat < mini.njobs.toNat ∧
    mini.params.outRecords ≤ (4 : BitVec 16).toNat := by decide

/-- SliceOfEmptySearch; ConstantLine, a line below the threshold and a pattern that is not 0; SliceStaysInsideRaw. -/
theorem witness_slice_rules :
    ({ mini with jobs := [{ hitJob with criSamples := 0 }, missJob] ++ List.replicate 6 Job.zero }.job 0).criSamples = 0 ∧
    (∀ k ≤ ({ hitJob with cri := 1, criMask := 1 } : Job).criSamples.toNat,
      sample (sampleSource mini hitJob 0) k = some 0) ∧
    0 < ({ hitJob with cri := 1, criMask := 1 } : Job).thresh.toNat / 512 ∧
    ({ hitJob with cri := 1, criMask := 1 } : Job).cri ≠ 0 ∧
    descriptorOf (mini.job 0).pf = some (byteSample 1 0 0 8) ∧ mini.job 0 = hitJob ∧
    mini.staging.addr.toNat + hitJob.skip.toNat + max hitJob.criSamples.toNat (hitJob.criSamples.toNat +
      (hitJob.phaseShift.toNat + (hitJob.frcBits.toNat + hitJob.payloadBits.toNat - 1) * hitJob.step.toNat) / 256) * 1 + 1
      ≤ mini.rawBytes := by decide +kernel

/-- PackBits: a full byte and one that is not, in each of the modes. -/
theorem witness_pack : (8 * 0 + 7 < (List.replicate 8 true).length) ∧ (8 * 1 + 3 < (List.replicate 12 true).length) ∧
    ¬ (8 * 1 + 4 < (List.replicate 12 true).length) := by decide

/-! ### Decoding a frame -/

/-- RowsDoNotOverlap: the two flags, and rows on both sides of the field boundary; the last row of field 0 and the first of field 1. -/
theorem witness_rows : (2 : BitVec 2).getLsbD 0 = false ∧ (1 : BitVec 2).getLsbD 0 = true ∧
    2 < ({ State.reset.geom with count0 := 3, count1 := 2 } : Geometry).count0.toNat ∧
    ({ State.reset.geom with count0 := 3, count1 := 2 } : Geometry).count0.toNat ≤ 3 ∧ (2 : Nat) ≠ 3 ∧ 3 < rowCount { State.reset.geom with count0 := 3, count1 := 2 } := by decide

/-- With the default `CHECK` no payload fails it. -/
theorem not_checkFails {s : State} {r i : Nat} (h : s.params.rejected = []) : ¬ CheckFails s r i := by
  rintro ⟨k, bits, thresh, -, -, hc⟩
  have hc0 := hc 0
  simp [checkPasses, h] at hc0

/-- With the default `CHECK` a slot is reached when every slot in front of it misses. -/
theorem reached_of_missed {s : State} {r p : Nat} (h : s.params.rejected = []) (hm : ∀ i < p, Missed s r i) : Reached s r p :=
  ⟨hm, fun _ _ _ _ hc => absurd hc (not_checkFails h)⟩

/-- Slot 0 of every row is reached. -/
theorem reached_zero (s : State) (r : Nat) : Reached s r 0 :=
  ⟨fun _ h => absurd h (Nat.not_lt_zero _), fun _ _ h h' => absurd (Nat.lt_of_lt_of_le h h') (Nat.not_lt_zero _)⟩

/-- A slot of `miniRow row` that refers to the missing Job misses. -/
theorem missed_of_slot {row : Row} {i : Nat} (hs : slotAt ((miniRow row).row 0) i = 2) : Missed (miniRow row) 0 i :=
  Or.inr (Or.inl ⟨1, ⟨hs, show (1 : Nat) < 2 by omega, show (2 : Nat) ≤ 8 by omega⟩, test_miss_misses⟩)

/-- RowHit at `p = 0`. -/
theorem witness_hit_front :
    ShapeOk mini ∧ mini.out.wf = true ∧ 1 < mini.params.maxLines ∧ (0 : Nat) ≠ 4 ∧ Reached mini 1 0 ∧ Candidate mini 1 0 0 ∧
    sliceOn mini 1 0 = .matched (List.replicate 8 false) 53760 ∧
    ∀ pad, checkPasses mini.params (mini.job 0).id (pack (mini.job 0).endian pad (List.replicate 8 false)) = true :=
  ⟨shapeOk_mini, by decide, by decide, by decide, reached_zero _ _, ⟨by decide, by decide, by decide⟩, by decide +kernel,
    fun _ => rfl⟩

/-- RowHit at `p = 7`, the Jobs in front missing. -/
theorem witness_hit_last :
    let s := miniRow [2, 2, 2, 2, 2, 2, 2, 1]
    ShapeOk s ∧ s.out.wf = true ∧ 0 < s.params.maxLines ∧ (0 : Nat) ≠ 4 ∧ Reached s 0 7 ∧ Candidate s 0 7 0 ∧
    sliceOn s 0 0 = .matched (List.replicate 8 false) 53760 ∧
    ∀ pad, checkPasses s.params (s.job 0).id (pack (s.job 0).endian pad (List.replicate 8 false)) = true := by
  refine ⟨shapeOk_miniRow _ rfl, by decide, by decide, by decide, reached_of_missed rfl fun i h => missed_of_slot ?_,
    ⟨by decide, by decide, by decide⟩, by decide +kernel, fun _ => rfl⟩
  have all : ∀ i < 7, slotAt ((miniRow [2, 2, 2, 2, 2, 2, 2, 1]).row 0) i = 2 := by decide
  exact all i h

/-- RowMiss, in the dwell window and after it, at `m = 1`. -/
theorem witness_miss :
    let s := miniRow [2, 0, 0, 0, 0, 0, 0, 0xFF]
    let t := miniRow [2, 0, 0, 0, 0, 0, 0, 0]
    ShapeOk s ∧ ShapeOk t ∧ 0 < s.params.maxLines ∧ (0 : Nat) ≠ 4 ∧ (slotAt (s.row 0) 7).toInt < 0 ∧
    ¬ (slotAt (t.row 0) 7).toInt < 0 ∧ isJobSlot (slotAt (s.row 0) 1) = false ∧ isJobSlot (slotAt (t.row 0) 1) = false ∧
    Reached s 0 1 ∧ Reached t 0 1 := by
  refine ⟨shapeOk_miniRow _ rfl, shapeOk_miniRow _ rfl, by decide, by decide, by decide, by decide, by decide, by decide,
    reached_of_missed rfl fun i h => missed_of_slot ?_, reached_of_missed rfl fun i h => missed_of_slot ?_⟩ <;>
  · cases (show i = 0 by omega)
    decide

/-- RowMiss at `m = 7`: the countdown itself is the first slot that is no Job. -/
theorem witness_miss_last :
    let s := miniRow [2, 2, 2, 2, 2, 2, 2, 0x80]
    ShapeOk s ∧ isJobSlot (slotAt (s.row 0) 7) = false ∧ Reached s 0 7 := by
  refine ⟨shapeOk_miniRow _ rfl, by decide, reached_of_missed rfl fun i h => missed_of_slot ?_⟩
  have all : ∀ i < 7, slotAt ((miniRow [2, 2, 2, 2, 2, 2, 2, 0x80]).row 0) i = 2 := by decide
  exact all i h

/-- A third Job matches every line, and `CHECK` rejects what it reads. -/
def picky (row : Row) : State :=
  { mini with
    params := { mini.params with rejected := [(4, [0])] }, njobs := 3
    jobs := [hitJob, missJob, { hitJob with id := 4 }] ++ List.replicate 5 Job.zero, pat := [row, blankRow] }

theorem picky_checkFails : sliceOn (picky [5, 3, 2, 1, 0, 0, 0, 0x80]) 0 2 = .matched (List.replicate 8 false) 53760 ∧
    ∀ pad : Byte, checkPasses (picky []).params 4 (pack 1 pad (List.replicate 8 false)) = false := by decide +kernel

/-- RowHit and RowMiss at slot 3, behind a dangling reference, a failed `CHECK` and a SLICE without a match. -/
theorem witness_check_fails :
    let s := picky [5, 3, 2, 1, 0, 0, 0, 0x80]
    let t := picky [5, 3, 2, 0, 0, 0, 0, 0x80]
    ShapeOk s ∧ Reached s 0 3 ∧ CheckFails s 0 1 ∧ Candidate s 0 3 0 ∧
    sliceOn s 0 0 = .matched (List.replicate 8 false) 53760 ∧ ShapeOk t ∧ Reached t 0 3 ∧
    isJobSlot (slotAt (t.row 0) 3) = false := by
  have reached : ∀ row : Row, slotAt row 0 = 5 → slotAt row 1 = 3 → slotAt row 2 = 2 →
      (∀ i < 4, ∀ q < 4, i < q → slotAt row i ≠ slotAt row q) → CheckFails (picky row) 0 1 ∧ Reached (picky row) 0 3 := by
    intro row h0 h1 h2 hne
    have failed : CheckFails (picky row) 0 1 :=
      ⟨2, _, _, ⟨h1, show (2 : Nat) < 3 by omega, show (3 : Nat) ≤ 8 by omega⟩, picky_checkFails.1, picky_checkFails.2⟩
    refine ⟨failed, fun i h => ?_, fun i q hi hq _ => hne i (by omega) q (by omega) hi⟩
    rcases (by omega : i = 0 ∨ i = 1 ∨ i = 2) with rfl | rfl | rfl
    · refine Or.inl ⟨?_, ?_⟩
      · show isJobSlot (slotAt row 0) = true
        rw [h0]
        decide
      · show 3 < (slotAt row 0).toNat
        rw [h0]
        decide
    · exact Or.inr (Or.inr failed)
    · exact Or.inr (Or.inl ⟨1, ⟨h2, show (1 : Nat) < 3 by omega, show (3 : Nat) ≤ 8 by omega⟩, test_miss_misses⟩)
  have hs := reached [5, 3, 2, 1, 0, 0, 0, 0x80] rfl rfl rfl (by decide)
  have ht := reached [5, 3, 2, 0, 0, 0, 0, 0x80] rfl rfl rfl (by decide)
  exact ⟨⟨by decide, by decide, by decide, by decide⟩, hs.2, hs.1, ⟨by decide, by decide, by decide⟩, by decide +kernel,
    ⟨by decide, by decide, by decide, by decide⟩, ht.2, by decide⟩

/-- RowStopsUntouched: a SLICE that leaves RAW at slot 0, and 8 Job slots that all miss; RowMiss with a full output, behind a
dangling reference. -/
theorem witness_stops :
    let s := { mini with rawBytes := 4 }
    let t := miniRow [2, 2, 2, 2, 2, 2, 2, 2]
    let u := miniRow [5, 0, 0, 0, 0, 0, 0, 0x80]
    ShapeOk s ∧ (0 : Nat) ≠ 4 ∧ Reached s 1 0 ∧ Candidate s 1 0 0 ∧ sliceOn s 1 0 = .overrun ∧ ShapeOk t ∧ Reached t 0 8 ∧
    ShapeOk u ∧ (∀ i < 1, Dangling u 0 i) ∧ Reached u 0 1 ∧ isJobSlot (slotAt (u.row 0) 1) = false := by
  have dangling : ∀ i < 1, Dangling (miniRow [5, 0, 0, 0, 0, 0, 0, 0x80]) 0 i := by
    intro i h
    cases (show i = 0 by omega)
    exact ⟨by decide, by decide⟩
  refine ⟨⟨by decide, by decide, by decide, by decide⟩, by decide, reached_zero _ _, ⟨by decide, by decide, by decide⟩,
    by decide +kernel, shapeOk_miniRow _ rfl, reached_of_missed rfl fun i h => missed_of_slot ?_, shapeOk_miniRow _ rfl,
    dangling, reached_of_missed rfl fun i h => Or.inl (dangling i h), by decide⟩
  have all : ∀ i < 8, slotAt ((miniRow [2, 2, 2, 2, 2, 2, 2, 2]).row 0) i = 2 := by decide
  exact all i h

/-- RowFrontBlank, with and without rotation; RowStopsUntouched at slot 0, behind a dangling slot, and past the last slot. -/
theorem witness_front :
    ShapeOk (miniRow [0, 1, 0, 0, 0, 0, 0, 0]) ∧ 0 < mini.params.maxLines ∧
    isJobSlot (slotAt ((miniRow [0, 1, 0, 0, 0, 0, 0, 0]).row 0) 0) = false ∧
    ({ miniRow [0, 1, 0, 0, 0, 0, 0, 0] with retest := 0 }).retest = 0 ∧ mini.retest ≠ 0 ∧
    isJobSlot (slotAt (mini.row 0) 0) = true ∧ (slotAt (mini.row 0) 0).toNat ≤ mini.njobs.toNat ∧
    isJobSlot (slotAt ((miniRow [3, 2, 0, 0, 0, 0, 0, 0]).row 0) 1) = true ∧
    (slotAt ((miniRow [3, 2, 0, 0, 0, 0, 0, 0]).row 0) 1).toNat ≤ (miniRow []).njobs.toNat ∧
    Dangling (miniRow [3, 2, 0, 0, 0, 0, 0, 0]) 0 0 ∧
    ∀ q < 8, Dangling (miniRow [3, 4, 5, 6, 7, 8, 9, 127]) 0 q := by
  refine ⟨shapeOk_miniRow _ rfl, by decide, by decide, by decide, by decide, by decide, by decide, by decide, by decide,
    ⟨by decide, by decide⟩, fun q h => ?_⟩
  have all : ∀ q < 8, isJobSlot (slotAt ((miniRow [3, 4, 5, 6, 7, 8, 9, 127]).row 0) q) = true ∧
      (miniRow [3, 4, 5, 6, 7, 8, 9, 127]).njobs.toNat
        < (slotAt ((miniRow [3, 4, 5, 6, 7, 8, 9, 127]).row 0) q).toNat := by decide
  exact all q h

/-- DecodeEntryAndEnd, DecodeRespectsCapacity, DecodeWithNothingToTest. -/
theorem witness_decode :
    ({ mini with geom := { mini.geom with count0 := 3 } }).params.maxLines
      < frameRows { mini with geom := { mini.geom with count0 := 3 } } ∧ frameRows mini ≤ mini.params.maxLines ∧
    mini.out.wf = true ∧ (∀ j < mini.njobs.toNat, (mini.job j).payloadBits.toNat ≤ 448) ∧ staged.njobs = 0 ∧
    frameRows staged ≤ staged.params.maxLines ∧
    ({ mini with staging := { mini.staging with outCap := 0 } }).staging.outCap = 0 := by decide

/-- How a walk ends, and with how many records. -/
def walkEnd (w : RowEnd × Nat × State) : RowEnd × Nat := (w.1, w.2.1)

/-- A walk's result from its three parts. -/
theorem eq_of_walkEnd {w : RowEnd × Nat × State} {e : RowEnd} {n : Nat} (h : walkEnd w = (e, n)) : w = (e, n, w.2.2) := by
  obtain ⟨e', n', t⟩ := w
  simp only [walkEnd, Prod.mk.injEq] at h
  rw [h.1, h.2]

/-- The state after row 0 of `mini`, and after row 1. -/
def afterRow : Nat → State
  | 0 => mini
  | 1 => (walkSlots 4 0 8 0 0 mini).2.2
  | _ => (walkSlots 4 1 8 0 1 (walkSlots 4 0 8 0 0 mini).2.2).2.2

theorem walk_row_zero : walkSlots 4 0 8 0 0 (afterRow 0) = (.ended, 1, afterRow 1) :=
  eq_of_walkEnd (w := walkSlots 4 0 8 0 0 mini) (by decide +kernel)

theorem walk_row_one : walkSlots 4 1 8 0 1 (afterRow 1) = (.ended, 2, afterRow 2) :=
  eq_of_walkEnd (w := walkSlots 4 1 8 0 1 (walkSlots 4 0 8 0 0 mini).2.2) (by decide +kernel)

/-- DecodeWalksRowsInOrder: both rows of `mini` end, each with a record. -/
theorem witness_walk :
    afterRow 0 = mini ∧ frameRows mini = 2 ∧ min mini.staging.outCap.toNat mini.params.outRecords = 4 ∧
    ∀ r < 2, walkSlots 4 r 8 0 r (afterRow r) = (.ended, r + 1, afterRow (r + 1)) := by
  refine ⟨rfl, by decide, by decide, fun r h => ?_⟩
  rcases (by omega : r = 0 ∨ r = 1) with rfl | rfl
  · exact walk_row_zero
  · exact walk_row_one

/-- DecodeWalksRowsInOrder at row 0: a full output, and RAW that ends in the row. -/
theorem witness_walk_stops :
    walkEnd (walkSlots 0 0 8 0 0 mini) = (.full, 0) ∧ walkEnd (walkSlots 4 0 8 0 0 { mini with rawBytes := 4 }) = (.overrun, 0) := by
  decide +kernel

/-! ### ADDSVC -/

/-- AddsvcReturnsServices: 8 Jobs; an entry that carries no signal; one that is accepted by its length, to the nanosecond, and
one that is not. -/
theorem witness_addsvc_length :
    8 ≤ (crowded 8 [1, 0, 0, 0, 0, 0, 0, 0]).njobs.toNat ∧ staged.njobs.toNat < 8 ∧
    (∀ r0 r1, ¬ Eligible staged.geom 0xFFFFFFFF 1 marker r0 r1) ∧
    RatesGiven staged.geom service (byteSample 1 0 0 8) ∧ Eligible staged.geom 0x10 1 service (0, 1) (0, 0) ∧
    FitsWindow catalogue staged.geom 1 service (byteSample 1 0 0 8) ∧
    ¬ FitsWindow { catalogue with lenMarginNs := 14001 } staged.geom 1 service (byteSample 1 0 0 8) := by
  refine ⟨by decide, by decide, fun r0 r1 h => h.signal (by decide), ⟨by decide, by decide, by decide, by decide⟩,
    ⟨by decide, by decide, by decide, by decide, by decide, by decide⟩, ?_, ?_⟩ <;>
  · unfold FitsWindow
    decide +kernel

/-- AddsvcReturnsServices: a line whose sampling starts 40 pixels late contains the service to the nanosecond, and with one
more nanosecond of margin it does not; 4 samples of the burst are passed over. -/
theorem witness_addsvc_window :
    let g := { staged.geom with offset := 40 }
    FitsWindow catalogue g 1 service (byteSample 1 0 0 8) ∧
    ¬ FitsWindow { catalogue with winMarginNs := 2001 } g 1 service (byteSample 1 0 0 8) ∧ skippedSamples catalogue g 1 = 4 := by
  unfold FitsWindow
  decide +kernel

/-- AddsvcRowRanges (R214), a field of the lines 10 to 12: each clause where it meets the next. -/
theorem test_row_ranges :
    fieldRange 1 0 12 10 3 5 = some (0, 0) ∧ fieldRange 1 10 0 10 3 5 = some (0, 0) ∧ fieldRange 1 10 12 10 0 5 = none ∧
    fieldRange 1 9 9 0 3 5 = some (5, 3) ∧ fieldRange 0 9 9 10 3 5 = some (5, 3) ∧ fieldRange 2 9 12 10 3 5 = none ∧
    fieldRange 2 10 13 10 3 5 = none ∧ fieldRange 2 10 12 10 3 5 = some (5, 3) ∧ fieldRange 1 9 9 10 3 5 = none ∧
    fieldRange 1 13 14 10 3 5 = none ∧ fieldRange 1 8 9 10 3 5 = none ∧ fieldRange 1 12 11 10 3 5 = none ∧
    fieldRange 1 12 14 10 3 5 = some (7, 1) ∧ fieldRange 1 8 10 10 3 5 = some (5, 1) ∧
    fieldRange 1 12 12 10 3 5 = some (7, 1) := by decide

/-! ### Rules about every instruction -/

/-- GeometryChangesOnlyUnlocked, StagingAndRetestWriters, EveryInstructionKeepsHostOwned. -/
theorem witness_writers :
    (∃ t, exec .decode mini = .next t) ∧ mini.njobs ≠ 0 ∧ (0x09 < (0x0A : BitVec 7).toNat) ∧
    ¬ (0x10 ≤ (0x0F : BitVec 7).toNat) ∧ Instr.reset ≠ .decode ∧ Instr.reset ≠ .wr 0x7F 0x04 :=
  ⟨⟨_, rfl⟩, by decide, by decide, by decide, by decide, by decide⟩

end Sys2Proof.Tests
end

section
/-! The host's stores in RAW and OUT (spec/00_scope.md rule R11, spec/20_memory.md rules R61, R77). -/

namespace Sys2Proof.Machine

/-! ## Memories filled by the host -/

/-- Holds at every address: past the bytes given both sides are the unlisted byte, 0. -/
theorem cellsRead_cellsOfBytes :
    ∀ (bs : List Byte) (a q : Nat), cellsRead (a + q) (cellsOfBytes a bs) = bs.getD q 0
  | [], _, _ => rfl
  | b :: bs, a, 0 => by
    rw [Nat.add_zero, List.getD_cons_zero, cellsOfBytes]
    split
    · next hb => rw [hb, cellsRead_below (Nat.lt_succ_self a) (cellsOfBytes_wf bs (a + 1))]
    · rw [cellsRead, if_pos rfl]
  | b :: bs, a, q + 1 => by
    have ih : cellsRead (a + (q + 1)) (cellsOfBytes (a + 1) bs) = bs.getD q 0 := by
      rw [show a + (q + 1) = a + 1 + q by omega, cellsRead_cellsOfBytes]
    rw [List.getD_cons_succ, cellsOfBytes]
    split
    · exact ih
    · rw [cellsRead, if_neg (by omega), if_neg (by omega), ih]

theorem Memory.ofBytes_read (bs : List Byte) (a : Nat) : (Memory.ofBytes bs).read a = bs.getD a 0 := by
  simpa [Memory.read, Memory.ofBytes] using cellsRead_cellsOfBytes bs 0 a

/-- Every byte of a memory after a store from address 0. -/
theorem Memory.writeBytes_zero_read {m : Memory} (h : m.wf = true) (bs : List Byte) (a : Nat) :
    (m.writeBytes 0 bs).read a = if a < bs.length then bs.getD a 0 else m.read a := by
  split
  · next ha => simpa [ha] using writeBytes_read_inside bs (a := 0) h ha
  · next ha => exact writeBytes_read_outside bs h (by omega)

/-- Every byte of OUT after the host's store: the bytes given, cut at the size of OUT (rule R62). -/
theorem hostFillOut_read {s : State} (h : s.out.wf = true) (bytes : List Byte) (a : Nat) :
    (hostFillOut bytes s).out.read a =
      if a < bytes.length ∧ a < 64 * s.params.outRecords then bytes.getD a 0 else s.out.read a := by
  have hlen : a < (bytes.take (outBytes s)).length ↔ a < bytes.length ∧ a < 64 * s.params.outRecords := by
    rw [List.length_take, Nat.lt_min, and_comm]
    rfl
  rw [hostFillOut_out, Memory.writeBytes_zero_read h]
  simp only [hlen]
  split
  · next ha => simp [List.getD_eq_getElem?_getD, outBytes, Config.recordBytes, ha.2]
  · rfl

/-! ## Steps of the host -/

theorem step_fillRaw {s : State} {bytes : List Byte} {rest : List HostAction} (hseq : s.seq = .idle)
    (hhost : s.host = .fillRaw bytes :: rest) : step s = .next (complete (hostFillRaw bytes s)) := by
  simp only [step, hseq, hhost]

theorem step_fillOut {s : State} {bytes : List Byte} {rest : List HostAction} (hseq : s.seq = .idle)
    (hhost : s.host = .fillOut bytes :: rest) : step s = .next (complete (hostFillOut bytes s)) := by
  simp only [step, hseq, hhost]

/-- Settles O9: each store is one step of the host, whose memory is read byte by byte with the laws above. -/
theorem fillRawThenRead : Obligations.FillRawThenRead := by
  refine ⟨fun s bytes rest hseq hhost => ?_, fun s bytes rest hseq hwf hhost => ?_⟩
  · refine ⟨_, step_fillRaw hseq hhost, fun a _ => Memory.ofBytes_read bytes a, ?_⟩
    simp [complete, hostFillRaw, hhost]
  · refine ⟨_, step_fillOut hseq hhost, hostFillOut_read hwf bytes, ?_⟩
    simp [complete, hostFillOut, hhost]

end Sys2Proof.Machine
end

section
/-! Invariants of the configuration (parameters, geometry, `SERVICES`, `NJOBS`, Job file, PAT): the argument that every step
keeps one, packaged once (`StepKeeps`), the sizes of the files, and the state after power-on reset. -/

namespace Sys2Proof.Safety

open Sys2Proof.Machine

/-! ## The configuration -/

/-- `t` has the configuration of `s`: every register the invariants of the Job file and of PAT speak of. -/
structure SameConfig (s t : State) : Prop where
  params : t.params = s.params
  geom : t.geom = s.geom
  services : t.services = s.services
  njobs : t.njobs = s.njobs
  jobs : t.jobs = s.jobs
  pat : t.pat = s.pat

theorem SameConfig.job {s t : State} (h : SameConfig s t) (j : Nat) : t.job j = s.job j := by
  rw [State.job, State.job, h.jobs]

/-- What RESET does to the configuration (spec/42_config.md rule R193). -/
def clearJobs (s : State) : State :=
  { s with
    njobs := 0
    services := 0
    jobs := List.replicate 8 Job.zero
    pat := List.replicate s.params.maxLines blankRow }

theorem cmdReset_eq (s : State) : cmdReset s = finish .ok 0 (clearJobs s) := rfl

/-- The power-on values, for the parameters of `s`, are those of RESET, with the geometry registers 0. -/
theorem sameConfig_resetOf (s : State) :
    SameConfig { clearJobs s with geom := (State.resetOf s.params).geom } (State.resetOf s.params) :=
  ⟨rfl, rfl, rfl, rfl, rfl, rfl⟩

@[simp] theorem clearJobs_job (s : State) (j : Nat) : (clearJobs s).job j = Job.zero := by
  rw [State.job, List.getD_eq_getElem?_getD]
  exact List.getElem?_getD_replicate_default_eq Job.zero 8 j

@[simp] theorem clearJobs_njobs (s : State) : (clearJobs s).njobs = 0 := rfl

/-! ## JOBADD's commit -/

/-- What JOBADD has found when it commits for Job `j` (spec/42_config.md rules R201 to R203). -/
structure Admitted (s : State) (j : Nat) : Prop where
  accepted : jobaddAccepted s.geom s.staging = true
  frame : rowCount s.geom ≤ s.params.maxLines
  room : rowsHaveRoom j s = true
  index : j < s.njobs.toNat ∨ (s.njobs ≠ 8 ∧ j = s.njobs.toNat)

theorem sharedJob_lt {s : State} {j : Nat} (h : sharedJob s = some j) : j < s.njobs.toNat :=
  List.mem_range.mp (List.mem_of_find?_eq_some h)

/-- JOBADD raises a code, or commits for a Job it has admitted. -/
theorem cmdJobadd_raise_or_commit (s : State) :
    (∃ c, cmdJobadd s = raise c s) ∨
    (∃ j, Admitted s j ∧ cmdJobadd s = commitJob j (reserveRows j (stagedRows s.staging) s)) := by
  rcases cmdJobadd_cases s with ⟨c, -, he⟩ | ⟨j, haccepted, hframe, hroom, hindex, he⟩
  · exact .inl ⟨c, he⟩
  · refine .inr ⟨j, ⟨haccepted, hframe, hroom, ?_⟩, he⟩
    rcases hindex with hshared | ⟨-, hnew⟩
    · exact .inl (sharedJob_lt hshared)
    · exact .inr hnew

/-- The identifiers of Job `j` before the commit; a new Job starts from none (rule R207). -/
def priorId (s : State) (j : Nat) : BitVec 32 := if j == s.njobs.toNat then 0 else (s.job j).id

@[simp] theorem commitJob_params (j : Nat) (s : State) : (commitJob j s).params = s.params := rfl
@[simp] theorem commitJob_geom (j : Nat) (s : State) : (commitJob j s).geom = s.geom := rfl
@[simp] theorem commitJob_services (j : Nat) (s : State) :
    (commitJob j s).services = s.services ||| s.staging.id := rfl
@[simp] theorem commitJob_jobs (j : Nat) (s : State) :
    (commitJob j s).jobs = s.jobs.set j (configuredJob s.geom s.staging (priorId s j)) := rfl
@[simp] theorem commitJob_pat (j : Nat) (s : State) : (commitJob j s).pat = s.pat := rfl

/-- A Job of the list after one entry is written. -/
theorem commitJob_job_same {s : State} {j : Nat} (h : j < s.jobs.length) :
    (commitJob j s).job j = configuredJob s.geom s.staging (priorId s j) :=
  setJob_job_same s j _ h

theorem commitJob_job_other {s : State} {j k : Nat} (h : j ≠ k) : (commitJob j s).job k = s.job k :=
  setJob_job_other s j k _ h

/-- A new Job counts `NJOBS` up, without a wrap. -/
theorem commitJob_njobs_toNat {s : State} (h : s.njobs.toNat ≤ 8) (j : Nat) :
    (commitJob j s).njobs.toNat = if j = s.njobs.toNat then s.njobs.toNat + 1 else s.njobs.toNat := by
  by_cases hj : j = s.njobs.toNat
  · simp only [commitJob, hj, beq_self_eq_true, if_true, finish_njobs, BitVec.toNat_add]
    simp
    omega
  · simp [commitJob, hj]

/-! ## A property of the configuration kept by every step -/

/-- `P` speaks of the configuration alone, holds when it is cleared, and is kept by everything that writes a part of it. -/
structure StepKeeps (P : State → Prop) : Prop where
  frame : ∀ {s t}, P s → SameConfig s t → P t
  geometry : ∀ s g, s.njobs = 0 → P s → P { s with geom := g }
  clear : ∀ s, P (clearJobs s)
  track : ∀ s j base bits thresh, P s → j < s.njobs.toNat →
    sliceJob (sampleSource s (s.job j) base) (s.job j) = .matched bits thresh →
    P (setThresh j (BitVec.ofNat 32 thresh) s)
  hit : ∀ s r i, P s → i < 8 → (∀ q ≤ i, isJobSlot (slotAt (s.row r) q) = true) →
    P (setRow r (hitRow (s.row r) i (slotAt (s.row r) i)) s)
  rest : ∀ s r i, P s → i < 8 → isJobSlot (slotAt (s.row r) i) = false →
    (∀ q < i, isJobSlot (slotAt (s.row r) q) = true) → P (setRow r (restRow s.retest (s.row r) i) s)
  jobadd : ∀ s j, P s → Admitted s j → P (commitJob j (reserveRows j (stagedRows s.staging) s))
  rmsvc : ∀ s, P s → P (cmdRmsvc s)

/-- A reference by an index below 127 is a Job slot (spec/30_encoding.md rule R100). -/
theorem isJobSlot_ofNat {j : Nat} (h : j < 127) : isJobSlot (BitVec.ofNat 8 (j + 1)) = true := by
  simp only [isJobSlot, slotValue, BitVec.toInt_eq_toNat_cond, BitVec.toNat_ofNat, decide_eq_true_eq]
  omega

namespace StepKeeps

variable {P : State → Prop}

theorem raise_keeps (h : StepKeeps P) (c : ResultCode) (s : State) (hP : P s) : P (raise c s) :=
  h.frame hP ⟨rfl, rfl, rfl, rfl, rfl, rfl⟩

theorem finish_keeps (h : StepKeeps P) (c : ResultCode) (v : BitVec 32) (s : State) (hP : P s) : P (finish c v s) :=
  h.frame hP ⟨rfl, rfl, rfl, rfl, rfl, rfl⟩

theorem complete_keeps (h : StepKeeps P) {s : State} (hP : P s) : P (complete s) :=
  h.frame hP ⟨rfl, rfl, rfl, rfl, rfl, rfl⟩

theorem retire_keeps (h : StepKeeps P) (s : State) (hP : P s) : P (retireSlicer s) :=
  h.frame hP ⟨rfl, rfl, rfl, rfl, rfl, rfl⟩

/-- The row walk of DECODE keeps `P`. -/
theorem walkKeeps (h : StepKeeps P) : WalkKeeps P where
  retire := h.retire_keeps
  track s j base bits thresh hP hj hs := h.retire_keeps _ (h.track s j base bits thresh hP hj hs)
  hit s r i n j x bytes hP hi hj hslot hfront _ _ _ := by
    have hjob : isJobSlot (slotAt (s.row r) i) = true := by
      rw [hslot]
      exact isJobSlot_ofNat (by omega)
    have hfront' : ∀ q ≤ i, isJobSlot (slotAt (s.row r) q) = true := fun q hq => by
      rcases hq.lt_or_eq with hq | rfl
      · exact hfront q hq
      · exact hjob
    exact h.frame (h.hit s r i hP hi hfront') ⟨rfl, rfl, rfl, rfl, rfl, rfl⟩
  rest := h.rest

theorem cmdReset_keeps (h : StepKeeps P) (s : State) : P (cmdReset s) := by
  rw [cmdReset_eq]
  exact h.finish_keeps _ _ _ (h.clear s)

theorem cmdJobadd_keeps (h : StepKeeps P) {s : State} (hP : P s) : P (cmdJobadd s) := by
  rcases cmdJobadd_raise_or_commit s with ⟨c, he⟩ | ⟨j, hadm, he⟩
  · rw [he]
    exact h.raise_keeps _ _ hP
  · rw [he]
    exact h.jobadd s j hP hadm

theorem cmdDecode_keeps (h : StepKeeps P) {s : State} (hP : P s) : P (cmdDecode s) :=
  h.walkKeeps.cmdDecode_keeps h.raise_keeps h.finish_keeps
    (fun _ _ hP => h.frame hP ⟨rfl, rfl, rfl, rfl, rfl, rfl⟩) s hP

theorem cmdSlice_keeps (h : StepKeeps P) (a : BitVec 3) (b : BitVec 16) {s : State} (hP : P s) : P (cmdSlice a b s) := by
  have hslice : a.toNat < s.njobs.toNat → P (runSlice a.toNat s.staging.addr.toNat s).2 := fun ha => by
    rcases runSlice_cases a.toNat s.staging.addr.toNat s with ⟨bits, thresh, hs, he⟩ | ⟨-, he⟩ | ⟨-, he⟩ <;> rw [he]
    · exact h.retire_keeps _ (h.track s _ _ bits thresh hP ha hs)
    · exact h.retire_keeps _ hP
    · exact h.retire_keeps _ hP
  rcases cmdSlice_cases a b s with ⟨-, he⟩ | ⟨-, -, he⟩ | ⟨ha, -, hend⟩
  · rw [he]
    exact h.raise_keeps _ _ hP
  · rw [he]
    exact h.raise_keeps _ _ hP
  have ht := hslice ha
  rcases hend with ⟨bytes, t, hrun, he⟩ | ⟨t, hrun, he⟩ | ⟨t, hrun, he⟩ <;> rw [hrun] at ht <;> rw [he]
  · exact h.finish_keeps _ _ _ (h.frame ht ⟨rfl, rfl, rfl, rfl, rfl, rfl⟩)
  · exact h.finish_keeps _ _ _ ht
  · exact h.finish_keeps _ _ _ ht

theorem executeCommand_keeps (h : StepKeeps P) (w : BitVec 32) {s : State} (hP : P s) : P (executeCommand w s) := by
  rcases executeCommand_cases w s with he | he | he | he | ⟨a, b, he⟩ | he <;> rw [he]
  · exact h.cmdReset_keeps s
  · exact h.cmdJobadd_keeps hP
  · exact h.rmsvc s hP
  · exact h.cmdDecode_keeps hP
  · exact h.cmdSlice_keeps a b hP
  · exact h.raise_keeps _ _ hP

theorem writeReg_keeps (h : StepKeeps P) (reg : BitVec 7) (data : BitVec 32) {s : State} (hP : P s) :
    P (writeReg reg data s) := by
  rcases writeReg_cases reg data s with he | he | ⟨g, h0, he⟩ | ⟨a, he⟩ | he <;> rw [he]
  · exact h.executeCommand_keeps data hP
  · exact h.raise_keeps _ _ hP
  · exact h.geometry s _ h0 hP
  · exact h.frame hP ⟨rfl, rfl, rfl, rfl, rfl, rfl⟩
  · exact hP

theorem exec_keeps (h : StepKeeps P) {i : Instr} {s t : State} (hP : P s) (he : exec i s = .next t) : P t := by
  cases i <;> cases he <;> apply h.complete_keeps
  case rd reg => exact h.frame hP ⟨rfl, rfl, rfl, rfl, rfl, rfl⟩
  case wr reg data => exact h.writeReg_keeps reg data hP
  case reset => exact h.cmdReset_keeps s
  case jobadd => exact h.cmdJobadd_keeps hP
  case rmsvc => exact h.rmsvc s hP
  case decode => exact h.cmdDecode_keeps hP
  case slice a b => exact h.cmdSlice_keeps a b hP

/-- The power-on values satisfy `P`, whatever the parameters. -/
theorem resetOf_holds (h : StepKeeps P) (p : Config.Params) : P (State.resetOf p) :=
  h.frame (h.geometry _ _ rfl (h.clear _)) (sameConfig_resetOf (State.resetOf p))

/-- Every step keeps `P`. -/
theorem step_keeps (h : StepKeeps P) {s t : State} (hP : P s) (hstep : step s = .next t) : P t := by
  obtain ⟨-, ⟨-, rfl⟩ | ⟨w, rest, -, he⟩ | ⟨bytes, rest, -, rfl⟩ | ⟨bytes, rest, -, rfl⟩ | ⟨rest, -, rfl⟩⟩ :=
    step_cases hstep
  · exact hP
  · exact h.exec_keeps hP he
  · exact h.complete_keeps (h.frame hP ⟨rfl, rfl, rfl, rfl, rfl, rfl⟩)
  · exact h.complete_keeps (h.frame hP ⟨rfl, rfl, rfl, rfl, rfl, rfl⟩)
  · exact h.complete_keeps (h.frame (h.resetOf_holds s.params) ⟨rfl, rfl, rfl, rfl, rfl, rfl⟩)

end StepKeeps

/-! ## RMSVC's loop -/

/-- `NJOBS` after one removal of an existing Job. -/
theorem removeJob_njobs_toNat {i : Nat} {s : State} (hi : i < s.njobs.toNat) :
    (removeJob i s).njobs.toNat = s.njobs.toNat - 1 := by
  rw [removeJob_njobs, BitVec.toNat_sub_of_le (by rw [BitVec.le_def]; simp; omega)]
  rfl

/-- The removal loop removes existing Jobs only. -/
theorem removeLoop_keeps_of_lt {P : State → Prop} {requested : BitVec 32}
    (hstep : ∀ i s, P s → i < s.njobs.toNat → P (removeJob i s)) :
    ∀ {left i : Nat} {s : State}, i + left = s.njobs.toNat → P s → P (removeLoop requested left i s)
  | 0, _, _, _, hP => hP
  | left + 1, i, s, hi, hP => by
    have hlt : i < s.njobs.toNat := by omega
    rw [removeLoop]
    split
    · exact removeLoop_keeps_of_lt hstep (by rw [removeJob_njobs_toNat hlt]; omega) (hstep i s hP hlt)
    · exact removeLoop_keeps_of_lt hstep (by omega) hP

/-- RMSVC keeps every property that removals of existing Jobs keep and that does not speak of `SERVICES`. -/
theorem cmdRmsvc_keeps_of_removeJob {P : State → Prop}
    (hframe : ∀ s c v active, P s → P (finish c v { s with services := active }))
    (hstep : ∀ i s, P s → i < s.njobs.toNat → P (removeJob i s)) {s : State} (hP : P s) : P (cmdRmsvc s) :=
  hframe _ _ _ _ (removeLoop_keeps_of_lt hstep (Nat.zero_add _) hP)

/-! ## The sizes of the files -/

/-- What holds of every element holds of every element after one is written. -/
theorem forall_mem_set {α : Type} {p : α → Prop} {l : List α} {i : Nat} {x : α} (h : ∀ y ∈ l, p y) (hx : p x) :
    ∀ y ∈ l.set i x, p y := fun y hy => by
  rcases List.mem_or_eq_of_mem_set hy with hy | rfl
  · exact h y hy
  · exact hx

theorem ShapeOk.setRow {s : State} (h : ShapeOk s) (r : Nat) {row : Row} (hrow : row.length = 8) :
    ShapeOk (setRow r row s) where
  jobs := h.jobs
  njobs := h.njobs
  pat := by simp [h.pat]
  rows := forall_mem_set h.rows hrow

/-- What holds of every row of PAT and of the blank row holds of row `r`, inside PAT or not. -/
theorem row_of_forall {p : Row → Prop} {s : State} (h : ∀ row ∈ s.pat, p row) (hblank : p blankRow) (r : Nat) :
    p (s.row r) := by
  rw [State.row, List.getD_eq_getElem?_getD]
  cases hr : s.pat[r]? with
  | none => exact hblank
  | some row => exact h row (List.mem_of_getElem? hr)

theorem ShapeOk.row_length {s : State} (h : ShapeOk s) (r : Nat) : (s.row r).length = 8 :=
  row_of_forall (p := fun row => row.length = 8) h.rows rfl r

@[simp] theorem promote_length (row : Row) (i : Nat) (v : Slot) : (promote row i v).length = row.length := by
  simp [promote]

@[simp] theorem hitRow_length (row : Row) (i : Nat) (v : Slot) : (hitRow row i v).length = row.length := by
  simp [hitRow]

theorem restRow_length {row : Row} (h : row.length = 8) (retest : BitVec 4) (i : Nat) :
    (restRow retest row i).length = 8 := by
  unfold restRow
  split
  · split
    · simp [rotateRow, h]
    · exact h
  · split <;> simp [h]

@[simp] theorem startDwell_length (row : Row) : (startDwell row).length = row.length := by
  unfold startDwell
  split <;> simp

@[simp] theorem reserveRow_length (j : Nat) (row : Row) : (reserveRow j row).length = row.length := by
  unfold reserveRow
  split <;> simp

theorem ShapeOk.reserveRows {s : State} (h : ShapeOk s) (j : Nat) (rows : List Nat) : ShapeOk (reserveRows j rows s) :=
  reserveRows_keeps (fun r _ t ht => ht.setRow r (by simp [ht.row_length])) h

theorem ShapeOk.removeJob {s : State} (h : ShapeOk s) {i : Nat} (hi : i < s.njobs.toNat) : ShapeOk (removeJob i s) where
  jobs := by simp
  njobs := by
    have := h.njobs
    rw [removeJob_njobs_toNat hi]
    omega
  pat := by simp [h.pat]
  rows := by simp

/-- Job `j` of a JOBADD lies in the Job file. -/
theorem ShapeOk.index_lt {s : State} (h : ShapeOk s) {j : Nat}
    (hj : j < s.njobs.toNat ∨ (s.njobs ≠ 8 ∧ j = s.njobs.toNat)) : j < 8 := by
  have hle := h.njobs
  rcases hj with hj | ⟨h8, hj⟩
  · omega
  · have hne : s.njobs.toNat ≠ 8 := fun he => h8 (BitVec.eq_of_toNat_eq he)
    omega

theorem ShapeOk.commitJob {s : State} (h : ShapeOk s) {j : Nat}
    (hj : j < s.njobs.toNat ∨ (s.njobs ≠ 8 ∧ j = s.njobs.toNat)) :
    ShapeOk (commitJob j s) := by
  refine ⟨by simp [h.jobs], ?_, h.pat, h.rows⟩
  have hlt := h.index_lt hj
  have hle := h.njobs
  rw [commitJob_njobs_toNat hle]
  split <;> omega

theorem reserveRows_njobs (j : Nat) (rows : List Nat) (s : State) : (reserveRows j rows s).njobs = s.njobs := by
  obtain ⟨pat, -, he⟩ := reserveRows_eq j rows s
  rw [he]

theorem shapeOk_stepKeeps : StepKeeps ShapeOk where
  frame h hst := ⟨by rw [hst.jobs, h.jobs], by rw [hst.njobs]; exact h.njobs, by rw [hst.pat, hst.params, h.pat],
    by rw [hst.pat]; exact h.rows⟩
  geometry _ _ _ h := ⟨h.jobs, h.njobs, h.pat, h.rows⟩
  clear s := ⟨by simp [clearJobs], by simp, by simp [clearJobs], fun row hrow => by
    rw [List.eq_of_mem_replicate hrow]
    rfl⟩
  track s j _ _ _ h _ _ := ⟨by simp [h.jobs], h.njobs, h.pat, h.rows⟩
  hit s r i h _ _ := h.setRow r (by simp [h.row_length])
  rest s r i h _ _ _ := h.setRow r (restRow_length (h.row_length r) _ _)
  jobadd s j h hadm := (h.reserveRows j _).commitJob (by rw [reserveRows_njobs]; exact hadm.index)
  rmsvc _ h := cmdRmsvc_keeps_of_removeJob (fun _ _ _ _ h => ⟨h.jobs, h.njobs, h.pat, h.rows⟩)
    (fun _ _ h hi => h.removeJob hi) h

end Sys2Proof.Safety
end

section
/-! PAT's invariants (spec/10_state.md rule R38): a row is a block of references with non-Job slots around it (`RowForm`), and
every update of a row is an operation on that block. -/

namespace Sys2Proof.Safety

open Sys2Proof.Machine

/-! ## The form of a row -/

/-- A row as three parts: at most one non-Job slot in front (a B-state), then the references `refs`, then non-Job slots. -/
structure RowForm (n : Nat) (front refs rest : Row) : Prop where
  front_le : front.length ≤ 1
  front_free : ∀ v ∈ front, isJobSlot v = false
  refs_job : ∀ v ∈ refs, isJobSlot v = true
  refs_le : ∀ v ∈ refs, v.toNat ≤ n
  nodup : refs.Nodup
  rest_free : ∀ v ∈ rest, isJobSlot v = false
  spare : front ≠ [] ∨ rest ≠ []

/-- The slots of a row of full length, by position. -/
theorem slotAt_eq_getElem {row : Row} {i : Nat} (h : i < row.length) : slotAt row i = row[i] := by
  simp [slotAt, h]

theorem slotAt_append_refs {front refs rest : Row} {i : Nat} (h : i < refs.length) :
    slotAt (front ++ refs ++ rest) (front.length + i) = refs[i] := by
  rw [slotAt_eq_getElem (by simp; omega)]
  simp [h]

/-- In a row of the form, the Job slots are those of the middle part. -/
theorem RowForm.isJobSlot_iff {n : Nat} {front refs rest : Row} (h : RowForm n front refs rest) {i : Nat}
    (hi : i < (front ++ refs ++ rest).length) :
    isJobSlot (slotAt (front ++ refs ++ rest) i) = decide (front.length ≤ i ∧ i < front.length + refs.length) := by
  rw [slotAt_eq_getElem hi]
  simp only [List.getElem_append, List.length_append]
  split
  · split
    · rw [h.front_free _ (List.getElem_mem _), eq_comm, decide_eq_false_iff_not]
      omega
    · rw [h.refs_job _ (List.getElem_mem _), eq_comm, decide_eq_true_iff]
      omega
  · rw [h.rest_free _ (List.getElem_mem _), eq_comm, decide_eq_false_iff_not]
    omega

theorem RowForm.rowOk {n : Nat} {front refs rest : Row} (h : RowForm n front refs rest)
    (h8 : (front ++ refs ++ rest).length = 8) : RowOk n (front ++ refs ++ rest) := by
  have hlen : front.length + refs.length + rest.length = 8 := by simpa [Nat.add_assoc] using h8
  have hfront := h.front_le
  have hjob : ∀ i < 8, isJobSlot (slotAt (front ++ refs ++ rest) i) =
      decide (front.length ≤ i ∧ i < front.length + refs.length) := fun i hi => h.isJobSlot_iff (by omega)
  have hspare : refs.length ≤ 7 := by
    rcases h.spare with hne | hne <;> have := List.length_pos_iff.mpr hne <;> omega
  have hmem : ∀ i < 8, isJobSlot (slotAt (front ++ refs ++ rest) i) = true →
      ∃ k, ∃ hk : k < refs.length, i = front.length + k ∧ slotAt (front ++ refs ++ rest) i = refs[k] := fun i hi hv => by
    rw [hjob i hi, decide_eq_true_iff] at hv
    obtain ⟨k, rfl⟩ := Nat.exists_eq_add_of_le hv.1
    exact ⟨k, by omega, rfl, slotAt_append_refs (by omega)⟩
  refine ⟨fun i hi hv => ?_, fun i hi k hk hv he => ?_, ?_, ⟨refs.length, hspare, ?_⟩, fun hv => ?_⟩
  · obtain ⟨k, hk, -, he⟩ := hmem i hi hv
    rw [he]
    exact h.refs_le _ (List.getElem_mem _)
  · obtain ⟨a, ha, rfl, hea⟩ := hmem i hi hv
    obtain ⟨b, hb, rfl, heb⟩ := hmem k hk (he ▸ hv)
    rw [hea, heb, h.nodup.getElem_inj_iff] at he
    rw [he]
  · rcases h.spare with hne | hne
    · have := List.length_pos_iff.mpr hne
      exact ⟨0, by omega, by rw [hjob 0 (by omega), decide_eq_false_iff_not]; omega⟩
    · have := List.length_pos_iff.mpr hne
      exact ⟨7, by omega, by rw [hjob 7 (by omega), decide_eq_false_iff_not]; omega⟩
  · rcases Nat.le_one_iff_eq_zero_or_eq_one.mp hfront with h0 | h1
    · refine .inl fun i hi => ?_
      rw [hjob i hi, decide_eq_decide]
      omega
    · refine .inr fun i hi => ?_
      rw [hjob i hi, decide_eq_decide]
      omega
  · rw [hjob 7 (by omega), decide_eq_true_iff] at hv
    refine ⟨by rw [hjob 0 (by omega), decide_eq_false_iff_not]; omega, fun i hi h1 => ?_⟩
    rw [hjob i hi, decide_eq_true_iff]
    omega

/-- A block of Job slots from slot `a` on gives the form. -/
theorem RowOk.rowForm_of_block {n a m : Nat} {row : Row} (h : RowOk n row) (h8 : row.length = 8) (ha : a ≤ 1)
    (ham : a + m ≤ 8) (hjob : ∀ i < 8, isJobSlot (slotAt row i) = decide (a ≤ i ∧ i < a + m)) (hspare : 1 ≤ a ∨ m ≤ 7) :
    RowForm n (row.take a) ((row.drop a).take m) (row.drop (a + m)) := by
  have hslot : ∀ i, (hi : i < row.length) → row[i] = slotAt row i := fun i hi => (slotAt_eq_getElem hi).symm
  have hrefs : ∀ v ∈ (row.drop a).take m, ∃ k, ∃ hk : a + k < 8, k < m ∧ v = slotAt row (a + k) := fun v hv => by
    obtain ⟨k, hk, rfl⟩ := List.mem_iff_getElem.mp hv
    simp only [List.length_take, List.length_drop] at hk
    exact ⟨k, by omega, by omega, by simp [hslot]⟩
  refine ⟨by simp; omega, fun v hv => ?_, fun v hv => ?_, fun v hv => ?_, ?_, fun v hv => ?_, ?_⟩
  · obtain ⟨k, hk, rfl⟩ := List.mem_iff_getElem.mp hv
    simp only [List.length_take] at hk
    rw [List.getElem_take, hslot, hjob k (by omega), decide_eq_false_iff_not]
    omega
  · obtain ⟨k, hk, hkm, rfl⟩ := hrefs v hv
    rw [hjob _ hk, decide_eq_true_iff]
    omega
  · obtain ⟨k, hk, hkm, rfl⟩ := hrefs v hv
    exact h.refs _ hk (by rw [hjob _ hk, decide_eq_true_iff]; omega)
  · refine List.nodup_iff_getElem?_ne_getElem?.mpr fun i k hik hk => ?_
    simp only [List.length_take, List.length_drop] at hk
    intro he
    rw [List.getElem?_eq_getElem (by simp; omega), List.getElem?_eq_getElem (by simp; omega)] at he
    simp only [List.getElem_take, List.getElem_drop, hslot, Option.some.injEq] at he
    have := h.once _ (by omega) _ (by omega) (by rw [hjob _ (by omega), decide_eq_true_iff]; omega) he
    omega
  · obtain ⟨k, hk, rfl⟩ := List.mem_iff_getElem.mp hv
    simp only [List.length_drop] at hk
    rw [List.getElem_drop, hslot, hjob _ (by omega), decide_eq_false_iff_not]
    omega
  · rcases hspare with ha | hm
    · exact .inl (List.ne_nil_of_length_pos (by simp; omega))
    · by_cases ha : a = 0
      · exact .inr (List.ne_nil_of_length_pos (by simp; omega))
      · exact .inl (List.ne_nil_of_length_pos (by simp; omega))

/-- Rule R38 for a row of 8 slots is the form. -/
theorem rowOk_iff_exists_form {n : Nat} {row : Row} (h8 : row.length = 8) :
    RowOk n row ↔ ∃ front refs rest, row = front ++ refs ++ rest ∧ RowForm n front refs rest := by
  constructor
  · intro h
    have hsplit : ∀ a m, row = row.take a ++ (row.drop a).take m ++ row.drop (a + m) := fun a m => by
      rw [List.append_assoc, ← List.drop_drop, List.take_append_drop, List.take_append_drop]
    obtain ⟨m, hm, hA | hB⟩ := h.block
    · exact ⟨_, _, _, hsplit 0 m, h.rowForm_of_block h8 (by omega) (by omega)
        (fun i hi => by rw [hA i hi, decide_eq_decide]; omega) (.inr hm)⟩
    · exact ⟨_, _, _, hsplit 1 m, h.rowForm_of_block h8 le_rfl (by omega)
        (fun i hi => by rw [hB i hi, decide_eq_decide]; omega) (.inl le_rfl)⟩
  · rintro ⟨front, refs, rest, rfl, hform⟩
    exact hform.rowOk h8

end Sys2Proof.Safety
end

section
/-! What the updates of a row do to its form, and the step invariant of PAT (spec/10_state.md rule R38). -/

namespace Sys2Proof.Safety

open Sys2Proof.Machine

variable {n : Nat} {front refs rest row : Row}

theorem RowOk.mono {n' : Nat} (h : RowOk n row) (hn : n ≤ n') : RowOk n' row :=
  ⟨fun i hi hv => (h.refs i hi hv).trans hn, h.once, h.spare, h.block, h.last⟩

theorem blankRow_ok : RowOk n blankRow :=
  (show RowForm n [] [] blankRow from
    ⟨by simp, by simp, by simp, by simp, by simp, by decide, by decide⟩).rowOk rfl

/-- The references in another order. -/
theorem RowForm.perm {refs' : Row} (h : RowForm n front refs rest) (hp : refs'.Perm refs) :
    RowForm n front refs' rest :=
  ⟨h.front_le, h.front_free, fun v hv => h.refs_job v (hp.mem_iff.mp hv), fun v hv => h.refs_le v (hp.mem_iff.mp hv),
    hp.nodup_iff.mpr h.nodup, h.rest_free, h.spare⟩

theorem RowForm.front_eq_nil (h : RowForm n front refs rest) (h0 : 0 < (front ++ refs ++ rest).length)
    (hjob : isJobSlot (slotAt (front ++ refs ++ rest) 0) = true) : front = [] := by
  rw [h.isJobSlot_iff h0, decide_eq_true_iff] at hjob
  exact List.length_eq_zero_iff.mp (by omega)

theorem slotAt_set_ne {i k : Nat} {v : Slot} (h : i ≠ k) : slotAt (row.set i v) k = slotAt row k := by
  simp [slotAt, List.getD_eq_getElem?_getD, List.getElem?_set_ne h]

/-! ## Slot values -/

theorem isJobSlot_iff_toNat {v : Slot} : isJobSlot v = true ↔ 1 ≤ v.toNat ∧ v.toNat < 128 := by
  rw [isJobSlot, decide_eq_true_iff, slotValue, BitVec.toInt_eq_toNat_cond]
  split <;> omega

theorem slotValue_of_isJobSlot {v : Slot} (h : isJobSlot v = true) : slotValue v = v.toNat := by
  rw [isJobSlot_iff_toNat] at h
  rw [slotValue, BitVec.toInt_eq_toNat_of_lt (by omega)]

/-! ## Slot 7 -/

/-- A non-Job value in a non-Job slot 7: a step of the countdown, or its start. -/
theorem RowOk.set_last {d : Slot} (h : RowOk n row) (h8 : row.length = 8) (h7 : isJobSlot (slotAt row 7) = false)
    (hd : isJobSlot d = false) : RowOk n (row.set 7 d) := by
  obtain ⟨front, refs, rest, rfl, hform⟩ := (rowOk_iff_exists_form h8).mp h
  have hlen : front.length + refs.length + rest.length = 8 := by simpa [Nat.add_assoc] using h8
  have hfront := hform.front_le
  rw [hform.isJobSlot_iff (by omega), decide_eq_false_iff_not] at h7
  rw [List.set_append_right _ _ (by simp; omega)]
  refine RowForm.rowOk ⟨hfront, hform.front_free, hform.refs_job, hform.refs_le, hform.nodup, fun v hv => ?_, ?_⟩
    (by simpa [Nat.add_assoc] using h8)
  · rcases List.mem_or_eq_of_mem_set hv with hv | rfl
    · exact hform.rest_free v hv
    · exact hd
  · exact .inr (List.ne_nil_of_length_pos (by simp; omega))

theorem isJobSlot_dwellStart : isJobSlot dwellStart = false := by decide

theorem RowOk.startDwell (h : RowOk n row) (h8 : row.length = 8) : RowOk n (startDwell row) := by
  unfold Machine.startDwell
  split
  · exact h
  · next h7 => exact h.set_last h8 (Bool.eq_false_iff.mpr h7) isJobSlot_dwellStart

/-- A countdown that has not run out stays non-Job when it steps (spec/43_scheduler.md rule R243). -/
theorem isJobSlot_countdown {v : Slot} (h : slotValue v < 0) : isJobSlot (v + 1) = false := by
  have h128 : 128 ≤ v.toNat := by
    rw [slotValue, BitVec.toInt_eq_toNat_cond] at h
    split at h <;> omega
  rw [Bool.eq_false_iff, ne_eq, isJobSlot_iff_toNat, BitVec.toNat_add, show (1 : Slot).toNat = 1 from rfl]
  omega

/-! ## Promotion and rotation -/

/-- A hit swaps two references (spec/43_scheduler.md rule R237). -/
theorem RowOk.promote_job {i : Nat} (h : RowOk n row) (h8 : row.length = 8)
    (hfront : isJobSlot (slotAt row 0) = true) (hi : i < 8) (hjob : isJobSlot (slotAt row i) = true) :
    RowOk n (promote row i (slotAt row i)) := by
  obtain ⟨front, refs, rest, rfl, hform⟩ := (rowOk_iff_exists_form h8).mp h
  obtain rfl := hform.front_eq_nil (by omega) hfront
  have hir : i < refs.length := by
    rw [hform.isJobSlot_iff (by omega), decide_eq_true_iff] at hjob
    simpa using hjob
  have h0 : slotAt ([] ++ refs ++ rest) 0 = refs[0] := by
    simpa using slotAt_append_refs (front := []) (rest := rest) (by omega)
  have hv : slotAt ([] ++ refs ++ rest) i = refs[i] := by simpa using slotAt_append_refs (front := []) (rest := rest) hir
  have heq : promote ([] ++ refs ++ rest) i (slotAt ([] ++ refs ++ rest) i) =
      [] ++ (refs.set i refs[0]).set 0 refs[i] ++ rest := by
    rw [hv, promote, h0, List.nil_append, List.nil_append, List.set_append_left _ _ hir,
      List.set_append_left _ _ (by simp; omega)]
  have hperm : ((refs.set i refs[0]).set 0 refs[i]).Perm refs := List.set_set_perm hir (by omega)
  rw [heq]
  exact (hform.perm hperm).rowOk (by simpa using h8)

theorem RowOk.hitRow {i : Nat} (h : RowOk n row) (h8 : row.length = 8) (hi : i < 8)
    (hfront : ∀ q ≤ i, isJobSlot (slotAt row q) = true) : RowOk n (hitRow row i (slotAt row i)) := by
  have h0 := hfront 0 (Nat.zero_le i)
  have h7 : isJobSlot (slotAt row 7) = false := by
    rw [Bool.eq_false_iff]
    intro h7
    rw [(h.last h7).1] at h0
    cases h0
  have hi7 : 7 ≠ i := by
    rintro rfl
    rw [hfront 7 le_rfl] at h7
    cases h7
  have hd := (h.set_last h8 h7 isJobSlot_dwellStart).promote_job (i := i) (by simpa using h8)
    (by rwa [slotAt_set_ne (by omega)]) hi (by rw [slotAt_set_ne hi7]; exact hfront i le_rfl)
  rwa [slotAt_set_ne hi7] at hd

/-- The promotion of a Blank takes an A-state to a B-state (spec/43_scheduler.md rule R244). -/
theorem RowOk.promote_blank {i : Nat} (h : RowOk n row) (h8 : row.length = 8) (hi : i < 8) (hpos : 0 < i)
    (hfront : ∀ q < i, isJobSlot (slotAt row q) = true) (hrest : isJobSlot (slotAt row i) = false) :
    RowOk n (promote row i 0) := by
  obtain ⟨front, refs, rest, rfl, hform⟩ := (rowOk_iff_exists_form h8).mp h
  obtain rfl := hform.front_eq_nil (by omega) (hfront 0 hpos)
  have hir : i = refs.length := by
    have hlast := hfront (i - 1) (by omega)
    rw [hform.isJobSlot_iff (by omega), decide_eq_true_iff] at hlast
    rw [hform.isJobSlot_iff (by omega), decide_eq_false_iff_not] at hrest
    simp only [List.length_nil] at hlast hrest
    omega
  obtain ⟨a, tail, rfl⟩ := List.exists_cons_of_length_pos (hir ▸ hpos)
  obtain ⟨x, rest, rfl⟩ := List.exists_cons_of_ne_nil (hform.spare.resolve_left (by simp))
  have heq : promote ([] ++ a :: tail ++ x :: rest) i 0 = [0] ++ (tail ++ [a]) ++ rest := by
    subst hir
    simp [promote, slotAt, List.set_append_right]
  have hperm : (tail ++ [a]).Perm (a :: tail) := List.perm_append_singleton a tail
  obtain ⟨-, -, hjob, hle, hnodup, hfree, -⟩ := hform.perm hperm
  rw [heq]
  refine RowForm.rowOk ⟨by simp, by simp [isJobSlot, slotValue], hjob, hle, hnodup, fun v hv => ?_, by simp⟩ ?_
  · exact hfree v (List.mem_cons_of_mem _ hv)
  · simp only [List.length_append, List.length_cons, List.length_nil] at h8 ⊢
    omega

/-- The rotation of a front non-Job slot takes a B-state to an A-state (spec/43_scheduler.md rule R242). -/
theorem RowOk.rotateRow (h : RowOk n row) (h8 : row.length = 8) (h0 : isJobSlot (slotAt row 0) = false) :
    RowOk n (rotateRow row) := by
  obtain ⟨front, refs, rest, rfl, hform⟩ := (rowOk_iff_exists_form h8).mp h
  have hrest : ∀ b tail, front ++ refs ++ rest = b :: refs ++ tail → (∀ v ∈ b :: tail, isJobSlot v = false) →
      RowOk n (Machine.rotateRow (front ++ refs ++ rest)) := fun b tail he hfree => by
    have heq : Machine.rotateRow (front ++ refs ++ rest) = [] ++ refs ++ (tail ++ [b]) := by
      rw [he]
      simp [Machine.rotateRow, slotAt]
    rw [heq]
    refine RowForm.rowOk ⟨by simp, by simp, hform.refs_job, hform.refs_le, hform.nodup, fun v hv => ?_, by simp⟩ ?_
    · exact hfree v (by simpa [or_comm] using hv)
    · rw [he] at h8
      simp only [List.length_append, List.length_cons, List.length_nil] at h8 ⊢
      omega
  cases front with
  | cons b front =>
    obtain rfl : front = [] := List.length_eq_zero_iff.mp (by simpa using hform.front_le)
    refine hrest b rest rfl fun v hv => ?_
    rcases List.mem_cons.mp hv with rfl | hv
    · exact hform.front_free v List.mem_cons_self
    · exact hform.rest_free v hv
  | nil =>
    have hrefs : refs = [] := by
      rw [hform.isJobSlot_iff (by omega), decide_eq_false_iff_not] at h0
      exact List.length_eq_zero_iff.mp (by simpa using h0)
    subst hrefs
    obtain ⟨b, rest, rfl⟩ := List.exists_cons_of_ne_nil (hform.spare.resolve_left (by simp))
    exact hrest b rest rfl hform.rest_free

theorem RowOk.restRow {i : Nat} (h : RowOk n row) (h8 : row.length = 8) (retest : BitVec 4) (hi : i < 8)
    (hrest : isJobSlot (slotAt row i) = false) (hfront : ∀ q < i, isJobSlot (slotAt row q) = true) :
    RowOk n (restRow retest row i) := by
  unfold Machine.restRow
  split
  · next h0 =>
    subst h0
    split
    · exact h.rotateRow h8 hrest
    · exact h
  · next hpos =>
    split
    · next hneg =>
      have h7 : isJobSlot (slotAt row 7) = false := decide_eq_false hneg.le.not_gt
      exact h.set_last h8 h7 (isJobSlot_countdown hneg)
    · exact h.promote_blank h8 hi (Nat.pos_of_ne_zero hpos) hfront hrest

end Sys2Proof.Safety
end

section
/-! JOBADD's and RMSVC's updates of a row, and the step invariant of PAT (spec/10_state.md rule R38). -/

namespace Sys2Proof.Safety

open Sys2Proof.Machine

variable {n j : Nat} {front refs rest row : Row}

/-! ## Reservation (spec/42_config.md rule R205) -/

theorem jobRef_toNat (h : j < 127) : (jobRef j).toNat = j + 1 := by
  rw [jobRef, BitVec.toNat_ofNat]
  omega

theorem isJobSlot_jobRef (h : j < 127) : isJobSlot (jobRef j) = true := isJobSlot_ofNat h

/-- The slot a reservation writes: the one of Job `j`, or a non-Job slot where the row has none. -/
theorem reservedSlot_spec {i : Nat} (h : reservedSlot j row = some i) :
    ∃ hi : i < row.length, row[i] = jobRef j ∨ isJobSlot row[i] = false := by
  unfold reservedSlot at h
  split at h
  · next k hk =>
    cases h
    obtain ⟨hi, hv, -⟩ := List.findIdx?_eq_some_iff_getElem.mp hk
    exact ⟨hi, .inl (beq_iff_eq.mp hv)⟩
  · obtain ⟨hi, hv, -⟩ := List.findIdx?_eq_some_iff_getElem.mp h
    exact ⟨hi, .inr (by simpa using hv)⟩

theorem reservedSlot_of_notMem (h : jobRef j ∉ row) :
    reservedSlot j row = row.findIdx? fun v => !isJobSlot v := by
  have hnone : row.findIdx? (fun v => v == jobRef j) = none :=
    List.findIdx?_eq_none_iff.mpr fun v hv => beq_eq_false_iff_ne.mpr fun he => h (he ▸ hv)
  rw [reservedSlot, hnone]

theorem reservedSlot_of_mem (h : jobRef j ∈ row) :
    ∃ i, ∃ hi : i < row.length, reservedSlot j row = some i ∧ row[i] = jobRef j := by
  cases hk : row.findIdx? (fun v => v == jobRef j) with
  | none =>
    have := List.findIdx?_eq_none_iff.mp hk _ h
    simp at this
  | some i =>
    obtain ⟨hi, hv, -⟩ := List.findIdx?_eq_some_iff_getElem.mp hk
    exact ⟨i, hi, by rw [reservedSlot, hk], beq_iff_eq.mp hv⟩

/-- What a row of the form has free for a Job it does not hold. -/
theorem RowForm.freeSlots_le (h : RowForm n front refs rest) (hj : jobRef j ∉ refs) :
    freeSlots j (front ++ refs ++ rest) ≤ front.length + rest.length := by
  have hrefs : refs.countP (fun v => !isJobSlot v || v == jobRef j) = 0 := List.countP_eq_zero.mpr fun v hv => by
    simp only [h.refs_job v hv, Bool.not_true, Bool.false_or, beq_iff_eq]
    rintro rfl
    exact hj hv
  rw [freeSlots, List.countP_append, List.countP_append, hrefs]
  exact Nat.add_le_add List.countP_le_length List.countP_le_length

theorem RowForm.notMem_refs (h : jobRef j ∉ front ++ refs ++ rest) : jobRef j ∉ refs := fun hmem => h (by simp [hmem])

/-- A row with room for a Job it does not hold takes a reference to it in its least non-Job slot, and has one to spare. -/
theorem RowForm.reserve_new {n' : Nat} (h : RowForm n front refs rest) (hn : n ≤ n') (hj : j < n') (h127 : j < 127)
    (hnew : jobRef j ∉ front ++ refs ++ rest) (hroom : 1 < freeSlots j (front ++ refs ++ rest))
    (h8 : (front ++ refs ++ rest).length = 8) :
    ∃ i, reservedSlot j (front ++ refs ++ rest) = some i ∧ RowOk n' ((front ++ refs ++ rest).set i (jobRef j)) := by
  have hjrefs : jobRef j ∉ refs := RowForm.notMem_refs hnew
  have hfree := hroom.trans_le (h.freeSlots_le hjrefs)
  have hrow : ∀ tail, tail ≠ [] → (∀ v ∈ tail, v ∈ rest) → (jobRef j :: refs ++ tail).length = 8 →
      ∀ refs', refs'.Perm (jobRef j :: refs) → RowOk n' ([] ++ refs' ++ tail) := fun tail hne hsub hlen refs' hp => by
    have hform : RowForm n' [] (jobRef j :: refs) tail := by
      refine ⟨by simp, by simp, fun v hv => ?_, fun v hv => ?_, List.nodup_cons.mpr ⟨hjrefs, h.nodup⟩,
        fun v hv => h.rest_free v (hsub v hv), .inr hne⟩
      · rcases List.mem_cons.mp hv with rfl | hv
        · exact isJobSlot_jobRef h127
        · exact h.refs_job v hv
      · rcases List.mem_cons.mp hv with rfl | hv
        · rw [jobRef_toNat h127]
          omega
        · exact (h.refs_le v hv).trans hn
    refine (hform.perm hp).rowOk ?_
    rw [List.nil_append, List.length_append, hp.length_eq, ← List.length_append]
    exact hlen
  rw [reservedSlot_of_notMem hnew]
  cases front with
  | cons b front =>
    obtain rfl : front = [] := List.length_eq_zero_iff.mp (by simpa using h.front_le)
    have hb : isJobSlot b = false := h.front_free b List.mem_cons_self
    refine ⟨0, by simp [List.findIdx?_cons, hb], ?_⟩
    exact hrow rest (List.ne_nil_of_length_pos (by simp at hfree; omega)) (fun _ hv => hv) (by simpa using h8) _ (.refl _)
  | nil =>
    obtain ⟨x, tail, rfl⟩ := List.exists_cons_of_ne_nil (h.spare.resolve_left (by simp))
    have hx : isJobSlot x = false := h.rest_free x List.mem_cons_self
    have hrefs : refs.findIdx? (fun v => !isJobSlot v) = none :=
      List.findIdx?_eq_none_iff.mpr fun v hv => by simp [h.refs_job v hv]
    refine ⟨refs.length, by simp [List.findIdx?_append, List.findIdx?_cons, hrefs, hx], ?_⟩
    have hset : ([] ++ refs ++ x :: tail).set refs.length (jobRef j) = [] ++ (refs ++ [jobRef j]) ++ tail := by
      simp [List.set_append_right]
    rw [hset]
    refine hrow tail (List.ne_nil_of_length_pos (by simp at hfree; omega)) (fun _ hv => List.mem_cons_of_mem _ hv) ?_ _
      (List.perm_append_singleton _ _)
    simp only [List.length_append, List.length_cons, List.length_nil] at h8 ⊢
    omega

theorem RowOk.reserveRow {n' : Nat} (h : RowOk n row) (h8 : row.length = 8) (hn : n ≤ n') (hj : j < n') (h127 : j < 127)
    (hroom : 1 < freeSlots j row) : RowOk n' (reserveRow j row) := by
  by_cases hmem : jobRef j ∈ row
  · obtain ⟨i, hi, hslot, hv⟩ := reservedSlot_of_mem hmem
    have hset : row.set i (jobRef j) = row := by rw [← hv, List.set_getElem_self]
    simp only [Machine.reserveRow, hslot, hset]
    exact (h.mono hn).startDwell h8
  · obtain ⟨front, refs, rest, rfl, hform⟩ := (rowOk_iff_exists_form h8).mp h
    obtain ⟨i, hslot, hok⟩ := hform.reserve_new hn hj h127 hmem hroom h8
    simp only [Machine.reserveRow, hslot]
    exact hok.startDwell (by simpa using h8)

/-- A count does not change when a counted element is replaced by a counted one. -/
theorem countP_set_of_pos {α : Type} {p : α → Bool} {l : List α} {i : Nat} {x : α} (hi : i < l.length)
    (hold : p l[i] = true) (hx : p x = true) : (l.set i x).countP p = l.countP p := by
  have hpos : 0 < l.countP p := List.countP_pos_iff.mpr ⟨l[i], List.getElem_mem hi, hold⟩
  rw [List.countP_set hi, if_pos hold, if_pos hx]
  omega

theorem freeSlots_startDwell (h8 : row.length = 8) : freeSlots j (startDwell row) = freeSlots j row := by
  unfold Machine.startDwell
  split
  · rfl
  · next h7 =>
    rw [slotAt_eq_getElem (by omega)] at h7
    exact countP_set_of_pos (by omega) (by simp [h7]) (by simp [isJobSlot_dwellStart])

/-- A row reserved for a Job has the room for it that it had: its slots count as the Job's own. -/
theorem freeSlots_reserveRow (h8 : row.length = 8) : freeSlots j (reserveRow j row) = freeSlots j row := by
  unfold Machine.reserveRow
  split
  · next i hslot =>
    obtain ⟨hi, hv⟩ := reservedSlot_spec hslot
    rw [freeSlots_startDwell (by simpa using h8)]
    exact countP_set_of_pos hi (by rcases hv with hv | hv <;> simp [hv]) (by simp)
  · exact freeSlots_startDwell h8

/-! ## Compaction (spec/42_config.md rule R209) -/

/-- The number a reference has after the removal of the one `ref`. -/
def renumber (ref v : Slot) : Slot := if slotValue ref < slotValue v then v - 1 else v

theorem compactRow_eq (ref : Slot) (row : Row) :
    compactRow ref row = (((row.filter fun v => v != ref).map (renumber ref)) ++ List.replicate 8 0).take 8 := rfl

theorem renumber_of_free {v : Slot} (hj : j < 127) (h : isJobSlot v = false) : renumber (jobRef j) v = v := by
  have hle : slotValue v ≤ 0 := by simpa [isJobSlot] using h
  have hpos : 0 < slotValue (jobRef j) := by simpa [isJobSlot] using isJobSlot_jobRef hj
  exact if_neg (by omega)

theorem renumber_toNat {v : Slot} (hj : j < 127) (h : isJobSlot v = true) :
    (renumber (jobRef j) v).toNat = if j + 1 < v.toNat then v.toNat - 1 else v.toNat := by
  rw [renumber, slotValue_of_isJobSlot h, slotValue_of_isJobSlot (isJobSlot_jobRef hj), jobRef_toNat hj]
  have hv := (isJobSlot_iff_toNat.mp h).1
  by_cases hlt : j + 1 < v.toNat
  · rw [if_pos hlt, if_pos (by omega), BitVec.toNat_sub_of_le (by rw [BitVec.le_def]; simp; omega)]
    rfl
  · rw [if_neg hlt, if_neg (by omega)]

theorem compact_free {part : Row} (hj : j < 127) (h : ∀ v ∈ part, isJobSlot v = false) :
    (part.filter fun v => v != jobRef j).map (renumber (jobRef j)) = part := by
  have hkeep : part.filter (fun v => v != jobRef j) = part := List.filter_eq_self.mpr fun v hv => by
    rw [bne_iff_ne]
    rintro rfl
    exact Bool.noConfusion ((isJobSlot_jobRef hj).symm.trans (h _ hv))
  rw [hkeep]
  exact (List.map_congr_left fun v hv => renumber_of_free hj (h v hv)).trans (List.map_id part)

theorem RowForm.compact (h : RowForm n front refs rest) (hj : j < n) (h127 : j < 127) (pad : Nat) :
    RowForm (n - 1) front ((refs.filter fun v => v != jobRef j).map (renumber (jobRef j)))
      (rest ++ List.replicate pad 0) := by
  have hkept : ∀ v ∈ refs.filter (fun v => v != jobRef j),
      isJobSlot v = true ∧ v.toNat ≤ n ∧ v.toNat ≠ j + 1 := fun v hv => by
    obtain ⟨hv, hne⟩ := List.mem_filter.mp hv
    refine ⟨h.refs_job v hv, h.refs_le v hv, fun he => bne_iff_ne.mp hne (BitVec.eq_of_toNat_eq ?_)⟩
    rw [he, jobRef_toNat h127]
  refine ⟨h.front_le, h.front_free, fun v hv => ?_, fun v hv => ?_, ?_, fun v hv => ?_, ?_⟩
  · obtain ⟨u, hu, rfl⟩ := List.mem_map.mp hv
    obtain ⟨hjob, -, hne⟩ := hkept u hu
    rw [isJobSlot_iff_toNat, renumber_toNat h127 hjob]
    rw [isJobSlot_iff_toNat] at hjob
    split <;> omega
  · obtain ⟨u, hu, rfl⟩ := List.mem_map.mp hv
    obtain ⟨hjob, hle, hne⟩ := hkept u hu
    rw [renumber_toNat h127 hjob]
    split <;> omega
  · refine (h.nodup.filter _).map_on fun u hu v hv he => BitVec.eq_of_toNat_eq ?_
    obtain ⟨hu, -, hune⟩ := hkept u hu
    obtain ⟨hv, -, hvne⟩ := hkept v hv
    have := congrArg BitVec.toNat he
    rw [renumber_toNat h127 hu, renumber_toNat h127 hv] at this
    split at this <;> split at this <;> omega
  · rcases List.mem_append.mp hv with hv | hv
    · exact h.rest_free v hv
    · rw [List.eq_of_mem_replicate hv]
      rfl
  · exact h.spare.imp_right fun hne => List.append_ne_nil_of_left_ne_nil hne _

theorem RowOk.compactRow (h : RowOk n row) (h8 : row.length = 8) (hj : j < n) (h127 : j < 127) :
    RowOk (n - 1) (Machine.compactRow (jobRef j) row) := by
  have hlength : (Machine.compactRow (jobRef j) row).length = 8 := compactRow_length _ _
  obtain ⟨front, refs, rest, rfl, hform⟩ := (rowOk_iff_exists_form h8).mp h
  rw [rowOk_iff_exists_form hlength]
  refine ⟨_, _, _, ?_, hform.compact hj h127 (8 - (front ++ (refs.filter fun v => v != jobRef j) ++ rest).length)⟩
  have hle : (refs.filter fun v => v != jobRef j).length ≤ refs.length := List.length_filter_le _ _
  rw [compactRow_eq, List.filter_append, List.filter_append, List.map_append, List.map_append,
    compact_free h127 hform.front_free, compact_free h127 hform.rest_free, List.take_append, List.take_of_length_le,
    List.take_replicate, ← List.append_assoc]
  · simp
  · simp only [List.length_append, List.length_map] at h8 ⊢
    omega

/-! ## PAT -/

theorem PatOk.row_ok {s : State} (h : PatOk s) (r : Nat) : RowOk s.njobs.toNat (s.row r) :=
  row_of_forall h.rows (blankRow_ok.mono (Nat.zero_le _)) r

/-- One row rewritten. -/
theorem PatOk.setRow {s : State} (h : PatOk s) (r : Nat) {row : Row} (h8 : row.length = 8)
    (hrow : RowOk s.njobs.toNat row) : PatOk (setRow r row s) where
  shape := h.shape.setRow r h8
  rows := forall_mem_set h.rows hrow

/-- What the commit of a JOBADD keeps of PAT, row after row: references to at most `n` Jobs, and the room that was tested. -/
structure Reserving (n j : Nat) (rows : List Nat) (s : State) : Prop where
  shape : ShapeOk s
  rowOk : ∀ row ∈ s.pat, RowOk n row
  room : ∀ r ∈ rows, 1 < freeSlots j (s.row r)

theorem Reserving.setRow {rows : List Nat} {s : State} (h : Reserving n j rows s) (hj : j < n) (h127 : j < 127) {r : Nat}
    (hr : r ∈ rows) : Reserving n j rows (setRow r (Machine.reserveRow j (s.row r)) s) where
  shape := h.shape.setRow r (by simp [h.shape.row_length])
  rowOk := forall_mem_set h.rowOk <|
    RowOk.reserveRow (row_of_forall h.rowOk (blankRow_ok.mono (Nat.zero_le _)) r) (h.shape.row_length r) le_rfl hj h127
      (h.room r hr)
  room k hk := by
    by_cases hrk : r = k
    · subst hrk
      by_cases hlen : r < s.pat.length
      · rw [setRow_row_same _ _ _ hlen, freeSlots_reserveRow (h.shape.row_length r)]
        exact h.room r hr
      · simpa [Machine.setRow, State.row, hlen] using h.room r hr
    · rw [setRow_row_other _ _ _ _ hrk]
      exact h.room k hk

theorem patOk_stepKeeps : StepKeeps PatOk where
  frame h hst := ⟨shapeOk_stepKeeps.frame h.shape hst, by rw [hst.pat, hst.njobs]; exact h.rows⟩
  geometry _ _ h0 h := ⟨shapeOk_stepKeeps.geometry _ _ h0 h.shape, h.rows⟩
  clear s := ⟨shapeOk_stepKeeps.clear s, fun row hrow => by
    rw [List.eq_of_mem_replicate hrow]
    exact blankRow_ok⟩
  track s j base bits thresh h hj hs := ⟨shapeOk_stepKeeps.track s j base bits thresh h.shape hj hs, h.rows⟩
  hit s r i h hi hfront := h.setRow r (by simp [h.shape.row_length])
    ((h.row_ok r).hitRow (h.shape.row_length r) hi hfront)
  rest s r i h hi hrest hfront := h.setRow r (restRow_length (h.shape.row_length r) _ _)
    ((h.row_ok r).restRow (h.shape.row_length r) _ hi hrest hfront)
  jobadd s j h hadm := by
    have hle := h.shape.njobs
    have h127 : j < 127 := (h.shape.index_lt hadm.index).trans (by omega)
    have hroom : ∀ r ∈ stagedRows s.staging, 1 < freeSlots j (s.row r) := fun r hr =>
      of_decide_eq_true (List.all_eq_true.mp hadm.room r hr)
    have hreserved : ∀ m, s.njobs.toNat ≤ m → j < m → Reserving m j (stagedRows s.staging)
        (reserveRows j (stagedRows s.staging) s) := fun m hm hj =>
      reserveRows_keeps (fun r hr t ht => ht.setRow hj h127 hr)
        ⟨h.shape, fun row hrow => (h.rows row hrow).mono hm, hroom⟩
    refine ⟨shapeOk_stepKeeps.jobadd s j h.shape hadm, ?_⟩
    rw [commitJob_njobs_toNat (by rwa [reserveRows_njobs]), reserveRows_njobs]
    rcases hadm.index with hj | ⟨-, rfl⟩
    · rw [if_neg (by omega)]
      exact (hreserved _ le_rfl hj).rowOk
    · rw [if_pos rfl]
      exact (hreserved _ (Nat.le_succ _) (Nat.lt_succ_self _)).rowOk
  rmsvc _ h := cmdRmsvc_keeps_of_removeJob
    (fun _ _ _ _ h => ⟨⟨h.shape.jobs, h.shape.njobs, h.shape.pat, h.shape.rows⟩, h.rows⟩)
    (fun i s h hi => ⟨h.shape.removeJob hi, fun row hrow => by
      obtain ⟨old, hold, rfl⟩ := List.mem_map.mp hrow
      rw [removeJob_njobs_toNat hi]
      exact (h.rows old hold).compactRow (h.shape.rows old hold) hi (by have := h.shape.njobs; omega)⟩) h

/-- Settles O52: every update of a row is an operation on its block of references. -/
theorem stepKeepsPat : Obligations.StepKeepsPat :=
  fun _ _ h hstep => patOk_stepKeeps.step_keeps h hstep

end Sys2Proof.Safety
end

section
/-! The step invariants of the Job file: `SERVICES` and the unused entries (spec/10_state.md rule R32). -/

namespace Sys2Proof.Safety

open Sys2Proof.Machine

/-! ## Unions of identifiers -/

/-- The union of a list of identifiers. -/
def idUnion (ids : List (BitVec 32)) : BitVec 32 := ids.foldl (· ||| ·) 0

theorem foldl_or_start (ids : List (BitVec 32)) (u a : BitVec 32) :
    ids.foldl (· ||| ·) (u ||| a) = ids.foldl (· ||| ·) u ||| a := by
  induction ids generalizing u with
  | nil => rfl
  | cons x ids ih =>
    rw [List.foldl_cons, List.foldl_cons, ← ih, BitVec.or_assoc, BitVec.or_assoc, BitVec.or_comm a x]

theorem foldl_or_set {ids : List (BitVec 32)} {j : Nat} (hj : j < ids.length) (u a : BitVec 32) :
    (ids.set j (ids[j] ||| a)).foldl (· ||| ·) u = ids.foldl (· ||| ·) u ||| a := by
  induction ids generalizing j u with
  | nil => simp at hj
  | cons x ids ih =>
    cases j with
    | zero => simp [← BitVec.or_assoc, foldl_or_start]
    | succ j => simpa using ih (by simpa using hj) _

theorem idUnion_append_singleton (ids : List (BitVec 32)) (a : BitVec 32) : idUnion (ids ++ [a]) = idUnion ids ||| a := by
  simp [idUnion]

/-- The identifiers of the Jobs below `n`. -/
def jobIds (s : State) (n : Nat) : List (BitVec 32) := (List.range n).map fun j => (s.job j).id

@[simp] theorem jobIds_length (s : State) (n : Nat) : (jobIds s n).length = n := by simp [jobIds]

theorem jobIds_congr {s t : State} {n : Nat} (h : ∀ j < n, (t.job j).id = (s.job j).id) : jobIds t n = jobIds s n :=
  List.map_congr_left fun j hj => h j (List.mem_range.mp hj)

theorem jobIds_succ (s : State) (n : Nat) : jobIds s (n + 1) = jobIds s n ++ [(s.job n).id] := by
  simp [jobIds, List.range_succ]

/-- The identifiers after one Job is written. -/
theorem jobIds_set {s t : State} {j n : Nat} {a : BitVec 32} (hsame : (t.job j).id = a)
    (hother : ∀ k, j ≠ k → (t.job k).id = (s.job k).id) : jobIds t n = (jobIds s n).set j a := by
  refine List.ext_getElem (by simp) fun k _ _ => ?_
  by_cases hk : j = k
  · subst hk
    simpa [jobIds] using hsame
  · simpa [jobIds, List.getElem_set_ne hk] using hother k hk

/-- RMSVC's union over the Job file is the union over the Jobs (spec/42_config.md rule R208). -/
theorem unionIds_eq {s : State} {n : Nat} (hn : n ≤ s.jobs.length) : unionIds s.jobs n = idUnion (jobIds s n) := by
  have htake : (s.jobs.take n).map Job.id = jobIds s n := by
    refine List.ext_getElem (by simpa using hn) fun j hj _ => ?_
    have hlen : j < s.jobs.length := by
      simp only [List.length_map, List.length_take] at hj
      omega
    simp [jobIds, State.job, hlen]
  rw [unionIds, idUnion, ← htake, List.foldl_map]

/-! ## Jobs through updates -/

/-- An entry outside the Job file reads as zeros. -/
theorem job_of_length_le {s : State} {j : Nat} (h : s.jobs.length ≤ j) : s.job j = Job.zero := by
  rw [State.job, List.getD_eq_default _ _ h]

/-- The Job file after one removal: later Jobs move down, the last entry is cleared. -/
theorem removeJob_job {s : State} (h : s.jobs.length = 8) (i k : Nat) :
    (removeJob i s).job k = if k < i then s.job k else if k + 1 < s.njobs.toNat then s.job (k + 1)
      else if k + 1 = s.njobs.toNat then Job.zero else s.job k := by
  by_cases hk : k < 8
  · rw [State.job, removeJob_jobs, removedJobs, List.getD_eq_getElem _ _ (by simpa [Config.maxJobs] using hk)]
    simp [State.job]
  · rw [job_of_length_le (by simp; omega)]
    simp only [job_of_length_le (s := s) (j := k) (by omega), job_of_length_le (s := s) (j := k + 1) (by omega), ite_self]

/-! ## SERVICES -/

/-- Every entry of the Job file at and above `NJOBS` is 0 (U7): what RMSVC's loop keeps of rule R32. -/
structure UnusedZero (s : State) : Prop where
  shape : ShapeOk s
  above : ∀ j, s.njobs.toNat ≤ j → s.job j = Job.zero

theorem UnusedZero.removeJob {s : State} (h : UnusedZero s) {i : Nat} (hi : i < s.njobs.toNat) :
    UnusedZero (removeJob i s) where
  shape := h.shape.removeJob hi
  above k hk := by
    rw [removeJob_njobs_toNat hi] at hk
    rw [removeJob_job h.shape.jobs, if_neg (by omega), if_neg (by omega)]
    split
    · rfl
    · exact h.above k (by omega)

theorem ServicesOk.unusedZero {s : State} (h : ServicesOk s) : UnusedZero s := ⟨h.shape, h.above⟩

/-- The new `SERVICES` after the commit of a JOBADD (rule R207). -/
theorem servicesOk_commitJob {s : State} (h : ServicesOk s) {j : Nat}
    (hj : j < s.njobs.toNat ∨ (s.njobs ≠ 8 ∧ j = s.njobs.toNat)) (hshape : ShapeOk (commitJob j s)) :
    ServicesOk (commitJob j s) := by
  have hservices : s.services = idUnion (jobIds s s.njobs.toNat) := h.services
  have hlen : j < s.jobs.length := h.shape.jobs.symm ▸ h.shape.index_lt hj
  have hother : ∀ k, j ≠ k → ((commitJob j s).job k).id = (s.job k).id := fun k hk => by rw [commitJob_job_other hk]
  have hnjobs := commitJob_njobs_toNat h.shape.njobs j
  refine ⟨hshape, ?_, fun k hk => ?_⟩
  · change _ = idUnion (jobIds _ _)
    rw [hnjobs, commitJob_services, hservices]
    rcases hj with hj | ⟨-, rfl⟩
    · have hsame : ((commitJob j s).job j).id = (jobIds s s.njobs.toNat)[j]'(by simpa using hj) ||| s.staging.id := by
        simp [commitJob_job_same hlen, configuredJob, priorId, jobIds, hj.ne]
      rw [if_neg hj.ne, jobIds_set hsame hother, idUnion, idUnion, foldl_or_set]
    · have hsame : ((commitJob s.njobs.toNat s).job s.njobs.toNat).id = s.staging.id := by
        simp [commitJob_job_same hlen, configuredJob, priorId]
      rw [if_pos rfl, jobIds_succ, idUnion_append_singleton, hsame, jobIds_congr fun k hk => hother k (by omega)]
  · rw [hnjobs] at hk
    have hne : j ≠ k := by split at hk <;> omega
    rw [commitJob_job_other hne]
    exact h.above k (by split at hk <;> omega)

theorem ServicesOk.of_pat {s : State} (h : ServicesOk s) {pat : List Row} (hshape : ShapeOk { s with pat := pat }) :
    ServicesOk { s with pat := pat } :=
  ⟨hshape, h.services, h.above⟩

/-- RMSVC reads `SERVICES` off the Jobs that remain (rule R208). -/
theorem servicesOk_of_rmsvc {t : State} (h : UnusedZero t) :
    ServicesOk (finish .ok (unionIds t.jobs t.njobs.toNat) { t with services := unionIds t.jobs t.njobs.toNat }) where
  shape := ⟨h.shape.jobs, h.shape.njobs, h.shape.pat, h.shape.rows⟩
  services := unionIds_eq (h.shape.jobs.symm ▸ h.shape.njobs)
  above := h.above

theorem servicesOk_stepKeeps : StepKeeps ServicesOk where
  frame h hst := ⟨shapeOk_stepKeeps.frame h.shape hst,
    by simp only [hst.services, hst.njobs, hst.job, h.services], by simpa only [hst.njobs, hst.job] using h.above⟩
  geometry _ _ h0 h := ⟨shapeOk_stepKeeps.geometry _ _ h0 h.shape, h.services, h.above⟩
  clear s := ⟨shapeOk_stepKeeps.clear s, rfl, fun j _ => clearJobs_job s j⟩
  track s j base bits thresh h hj hs := by
    refine ⟨shapeOk_stepKeeps.track s j base bits thresh h.shape hj hs, ?_, fun k hk => ?_⟩
    · simp only [setThresh_services, setThresh_njobs, setThresh_job_id, h.services]
    · rw [setThresh_njobs] at hk
      rw [setThresh, setJob_job_other _ _ _ _ (by omega)]
      exact h.above k hk
  hit s r i h hi hfront := h.of_pat (shapeOk_stepKeeps.hit s r i h.shape hi hfront)
  rest s r i h hi hrest hfront := h.of_pat (shapeOk_stepKeeps.rest s r i h.shape hi hrest hfront)
  jobadd s j h hadm := by
    have hshape := shapeOk_stepKeeps.jobadd s j h.shape hadm
    have hreserved := h.shape.reserveRows j (stagedRows s.staging)
    obtain ⟨pat, -, he⟩ := reserveRows_eq j (stagedRows s.staging) s
    rw [he] at hshape hreserved ⊢
    exact servicesOk_commitJob (h.of_pat hreserved) hadm.index hshape
  rmsvc _ h := servicesOk_of_rmsvc
    (removeLoop_keeps_of_lt (fun _ _ h hi => UnusedZero.removeJob h hi) (Nat.zero_add _) h.unusedZero)

/-- Settles O54: `SERVICES` grows with the identifiers of a commit and is read off the remaining Jobs by RMSVC. -/
theorem stepKeepsServices : Obligations.StepKeepsServices :=
  fun _ _ h hstep => servicesOk_stepKeeps.step_keeps h hstep

end Sys2Proof.Safety
end

section
/-! The step invariant of the configured Jobs (spec/10_state.md rule R35): the derived fields of an accepted JOBADD fit their
registers, and nothing but a commit and a tracked threshold writes a Job in place. -/

namespace Sys2Proof.Safety

open Sys2Proof.Machine

/-! ## Accepted inputs (spec/42_config.md rule R201) -/

/-- The conditions of rule R201 that the fields of a Job rest on, with the descriptor of the format. -/
structure AcceptedInputs (g : Geometry) (a : Staging) (d : Config.PixelDescriptor) : Prop where
  format : descriptorOf g.pixfmt = some d
  syncBits : (stagedCriBits a).toNat + (stagedFrcBits a).toNat ≤ 32
  rate : 1 ≤ g.rate.toNat ∧ g.rate.toNat ≤ 2 ^ 28
  criRate : 1 ≤ a.criRate.toNat ∧ a.criRate.toNat ≤ 2 ^ 28
  bitRate : 1 ≤ a.bitRate.toNat ∧ a.bitRate.toNat ≤ 2 ^ 28
  id : a.id ≠ 0
  payload : 1 ≤ a.payload.toNat ∧ a.payload.toNat ≤ 448
  offset : a.offset.toNat < g.bpl.toNat

theorem acceptedInputs_of_jobaddAccepted {g : Geometry} {a : Staging} (h : jobaddAccepted g a = true) :
    ∃ d, AcceptedInputs g a d := by
  simp only [jobaddAccepted, rateAccepted, Bool.and_eq_true, decide_eq_true_eq, bne_iff_ne] at h
  obtain ⟨⟨⟨⟨⟨⟨⟨⟨⟨⟨⟨⟨⟨⟨hformat, -⟩, -⟩, -⟩, hsync⟩, hrate⟩, hcri⟩, hbit⟩, hid⟩, hpmin⟩, hpmax⟩, -⟩, hoffset⟩, -⟩, -⟩ := h
  obtain ⟨d, hd⟩ := Option.isSome_iff_exists.mp hformat
  exact ⟨d, hd, hsync, hrate, hcri, hbit, hid, ⟨hpmin, hpmax⟩, hoffset⟩

theorem descriptorOrFree_of_some {code : BitVec 8} {d : Config.PixelDescriptor} (h : descriptorOf code = some d) :
    descriptorOrFree code = d := by
  rw [descriptorOrFree, h, Option.getD_some]

/-- `skip` of every format fits `JOB.skip`. -/
theorem descriptorOf_skip_lt {code : BitVec 8} {d : Config.PixelDescriptor} (h : descriptorOf code = some d) :
    d.skip < 256 := by
  have hall : ∀ e ∈ pixelTable, e.2.skip < 256 := by decide
  obtain ⟨front, back, he, -⟩ := List.lookup_eq_some_iff.mp h
  exact hall (code, d) (by simp [he])

/-! ## The derived fields (rule R206) -/

/-- The numerator of `phase_shift` over the common denominator, as a real sum of fractions. -/
theorem phaseShiftOf_eq_floor {sr cr br : Nat} (hcr : 1 ≤ cr) (hbr : 1 ≤ br) (b : Bool) :
    (phaseShiftOf sr cr br b : ℤ) = ⌊(128 * sr / cr + (if b then 64 else 128) * sr / br + 128 : ℚ)⌋ := by
  have hcr' : (cr : ℚ) ≠ 0 := by positivity
  have hbr' : (br : ℚ) ≠ 0 := by positivity
  have hsum : (128 * sr / cr + (if b then 64 else 128) * sr / br + 128 : ℚ) =
      ((128 * sr * br + (if b then 64 else 128) * sr * cr + 128 * cr * br : ℕ) : ℚ) / ((cr * br : ℕ) : ℚ) := by
    push_cast
    field_simp
  rw [hsum, Rat.floor_natCast_div_natCast, phaseShiftOf, Int.natCast_div]

theorem phaseShiftOf_lt {sr cr br : Nat} (hsr : sr ≤ 2 ^ 28) (hcr : 1 ≤ cr) (hbr : 1 ≤ br) (b : Bool) :
    phaseShiftOf sr cr br b < 2 ^ 40 := by
  have hq : (if b then 64 else 128) ≤ 128 := by split <;> omega
  have hbound : phaseShiftOf sr cr br b ≤ 128 * sr + 128 * sr + 128 := by
    refine Nat.div_le_of_le_mul ?_
    have hbr_le : br ≤ cr * br := Nat.le_mul_of_pos_left _ hcr
    have hcr_le : cr ≤ cr * br := Nat.le_mul_of_pos_right _ hbr
    calc 128 * sr * br + (if b then 64 else 128) * sr * cr + 128 * cr * br
        = 128 * sr * br + (if b then 64 else 128) * sr * cr + 128 * (cr * br) := by rw [Nat.mul_assoc 128 cr br]
      _ ≤ 128 * sr * (cr * br) + 128 * sr * (cr * br) + 128 * (cr * br) := by gcongr
      _ = cr * br * (128 * sr + 128 * sr + 128) := by ring
  omega

theorem endianOf_toNat (p : Nat) (m : BitVec 2) :
    (endianOf p m).toNat = (if p % 8 ≠ 0 then 2 else 0) + (if m.getLsbD 0 then 0 else 1) := by
  rw [endianOf, msbFirst, BitVec.toNat_ofNat, Nat.mod_eq_of_lt (by split <;> split <;> omega)]

theorem toNat_ofNat_of_lt {w x : Nat} (h : x < 2 ^ w) : (BitVec.ofNat w x).toNat = x := by
  rw [BitVec.toNat_ofNat, Nat.mod_eq_of_lt h]

/-- A Job written for accepted inputs is configured: every derived value fits its field. -/
theorem jobConfigured_configuredJob {g : Geometry} {a : Staging} {d : Config.PixelDescriptor} (h : AcceptedInputs g a d)
    (oldId : BitVec 32) : JobConfigured g (configuredJob g a oldId) d := by
  obtain ⟨hformat, hsync, ⟨hrmin, hrmax⟩, ⟨hcmin, hcmax⟩, ⟨hbmin, hbmax⟩, hid, ⟨hpmin, hpmax⟩, hoffset⟩ := h
  have hd := descriptorOrFree_of_some hformat
  have hbpl := g.bpl.isLt
  have hline : (configuredJob g a oldId).lineSamples.toNat = (g.bpl.toNat - a.offset.toNat) / d.stride := by
    have hle := Nat.div_le_self (g.bpl.toNat - a.offset.toNat) d.stride
    simp only [configuredJob, hd]
    exact toNat_ofNat_of_lt (by omega)
  have hpayload : (configuredJob g a oldId).payloadBits.toNat = a.payload.toNat := toNat_ofNat_of_lt (by omega)
  constructor
  case format => exact hformat
  case pf => rfl
  case rate => rfl
  case rateMin => exact hrmin
  case rateMax => exact hrmax
  case criRateMin => exact hcmin
  case criRateMax => exact hcmax
  case bitRateMin => exact hbmin
  case bitRateMax => exact hbmax
  case syncBits => exact hsync
  case payloadMin => rwa [hpayload]
  case payloadMax => rwa [hpayload]
  case offset => exact hoffset
  case id => exact fun h0 => hid (BitVec.or_eq_zero_iff.mp h0).2
  case masked => simp [configuredJob, assembledCri, BitVec.and_assoc]
  case lineSamples => exact hline
  case osRate => exact toNat_ofNat_of_lt (by simp only [Config.oversampling]; omega)
  case step =>
    have hle := Nat.div_le_self (256 * g.rate.toNat) a.bitRate.toNat
    exact toNat_ofNat_of_lt (by omega)
  case phaseShift =>
    refine Eq.trans ?_ (phaseShiftOf_eq_floor hcmin hbmin _)
    exact congrArg Nat.cast (toNat_ofNat_of_lt (phaseShiftOf_lt hrmax hcmin hbmin _))
  case skip =>
    simp only [configuredJob, hd]
    exact toNat_ofNat_of_lt (descriptorOf_skip_lt hformat)
  case endian => rw [hpayload]; exact endianOf_toNat _ _
  case criSamples =>
    rw [hline, hpayload]
    simp only [configuredJob, hd]
    have hle := Nat.div_le_self (g.bpl.toNat - a.offset.toNat) d.stride
    exact toNat_ofNat_of_lt ((Nat.sub_le _ _).trans_lt (by omega))

/-- The threshold is no part of the configuration. -/
theorem JobConfigured.setThresh {g : Geometry} {job : Job} {d : Config.PixelDescriptor} (h : JobConfigured g job d)
    (v : BitVec 32) : JobConfigured g { job with thresh := v } d := by
  cases h
  constructor <;> assumption

/-! ## The Job file -/

theorem JobsOk.of_pat {s : State} (h : JobsOk s) {pat : List Row} (hshape : ShapeOk { s with pat := pat }) :
    JobsOk { s with pat := pat } :=
  ⟨hshape, h.jobs, h.frame⟩

theorem jobsOk_setThresh {s : State} (h : JobsOk s) {j : Nat} {v : BitVec 32} (hj : j < s.njobs.toNat)
    (hshape : ShapeOk (setThresh j v s)) : JobsOk (setThresh j v s) := by
  refine ⟨hshape, fun k hk => ?_, h.frame⟩
  obtain ⟨d, hd⟩ := h.jobs k hk
  refine ⟨d, ?_⟩
  by_cases hjk : j = k
  · subst hjk
    have hlen : j < s.jobs.length := h.shape.jobs.symm ▸ hj.trans_le h.shape.njobs
    rw [Machine.setThresh, setJob_job_same _ _ _ hlen]
    exact hd.setThresh v
  · rw [Machine.setThresh, setJob_job_other _ _ _ _ hjk]
    exact hd

theorem jobsOk_commitJob {s : State} (h : JobsOk s) {j : Nat}
    (hj : j < s.njobs.toNat ∨ (s.njobs ≠ 8 ∧ j = s.njobs.toNat)) (haccepted : jobaddAccepted s.geom s.staging = true)
    (hframe : rowCount s.geom ≤ s.params.maxLines) (hshape : ShapeOk (commitJob j s)) : JobsOk (commitJob j s) := by
  refine ⟨hshape, fun k hk => ?_, fun _ => hframe⟩
  rw [commitJob_njobs_toNat h.shape.njobs] at hk
  by_cases hjk : j = k
  · subst hjk
    obtain ⟨d, hd⟩ := acceptedInputs_of_jobaddAccepted haccepted
    rw [commitJob_job_same (h.shape.jobs.symm ▸ h.shape.index_lt hj)]
    exact ⟨d, jobConfigured_configuredJob hd _⟩
  · rw [commitJob_job_other hjk]
    exact h.jobs k (by split at hk <;> omega)

theorem jobsOk_removeJob {s : State} (h : JobsOk s) {i : Nat} (hi : i < s.njobs.toNat) : JobsOk (removeJob i s) := by
  refine ⟨h.shape.removeJob hi, fun k hk => ?_, fun _ => h.frame fun h0 => ?_⟩
  · rw [removeJob_njobs_toNat hi] at hk
    rw [removeJob_job h.shape.jobs]
    split
    · exact h.jobs k (by omega)
    · rw [if_pos (by omega)]
      exact h.jobs (k + 1) (by omega)
  · simp [h0] at hi

theorem jobsOk_stepKeeps : StepKeeps JobsOk where
  frame h hst := ⟨shapeOk_stepKeeps.frame h.shape hst, by simpa only [hst.njobs, hst.geom, hst.job] using h.jobs,
    by simpa only [hst.njobs, hst.geom, hst.params] using h.frame⟩
  geometry s _ h0 h := ⟨shapeOk_stepKeeps.geometry _ _ h0 h.shape,
    fun j hj => by simp [h0] at hj, fun hne => absurd h0 hne⟩
  clear s := ⟨shapeOk_stepKeeps.clear s, fun j hj => by simp at hj, fun hne => absurd rfl hne⟩
  track s j base bits thresh h hj hs :=
    jobsOk_setThresh h hj (shapeOk_stepKeeps.track s j base bits thresh h.shape hj hs)
  hit s r i h hi hfront := h.of_pat (shapeOk_stepKeeps.hit s r i h.shape hi hfront)
  rest s r i h hi hrest hfront := h.of_pat (shapeOk_stepKeeps.rest s r i h.shape hi hrest hfront)
  jobadd s j h hadm := by
    have hshape := shapeOk_stepKeeps.jobadd s j h.shape hadm
    have hreserved := h.shape.reserveRows j (stagedRows s.staging)
    obtain ⟨pat, -, he⟩ := reserveRows_eq j (stagedRows s.staging) s
    rw [he] at hshape hreserved ⊢
    exact jobsOk_commitJob (h.of_pat hreserved) hadm.index hadm.accepted hadm.frame hshape
  rmsvc _ h := cmdRmsvc_keeps_of_removeJob
    (fun _ _ _ _ h => ⟨⟨h.shape.jobs, h.shape.njobs, h.shape.pat, h.shape.rows⟩, h.jobs, h.frame⟩)
    (fun _ _ h hi => jobsOk_removeJob h hi) h

/-- Settles O55: only a commit and a tracked threshold write a Job in place, and the geometry is locked while one exists. -/
theorem stepKeepsJobs : Obligations.StepKeepsJobs :=
  fun _ _ h hstep => jobsOk_stepKeeps.step_keeps h hstep

end Sys2Proof.Safety
end

section
/-! The state after power-on reset (spec/10_state.md rule R42). -/

namespace Sys2Proof.Safety

open Sys2Proof.Machine

theorem powerOnValues_resetOf (p : Config.Params) : PowerOnValues (State.resetOf p) where
  geom := rfl
  staging := rfl
  result := rfl
  value := rfl
  services := rfl
  njobs := rfl
  retest := rfl
  jobs := ⟨rfl, fun j _ => clearJobs_job (State.resetOf p) j⟩
  pat := by
    have hrow : ∀ r, (State.resetOf p).row r = blankRow := fun r =>
      row_of_forall (p := (· = blankRow)) (fun row hrow => List.eq_of_mem_replicate hrow) rfl r
    refine ⟨List.length_replicate, fun r _ i hi => ?_⟩
    rw [hrow r, slotAt_eq_getElem hi]
    exact List.getElem_replicate _
  seq := rfl

theorem step_powerOnReset {s : State} {rest : List HostAction} (hseq : s.seq = .idle)
    (hhost : s.host = .powerOnReset :: rest) : step s = .next (complete (assertReset s)) := by
  simp only [step, hseq, hhost]

/-- Settles O8: the reset input gives the registers of `State.resetOf` and keeps what the host owns. -/
theorem powerOnResetValues : Obligations.PowerOnResetValues := by
  refine ⟨powerOnValues_resetOf _, fun s rest hseq hhost => ⟨_, step_powerOnReset hseq hhost, ?_, rfl, rfl, rfl, rfl, ?_⟩⟩
  · obtain ⟨hgeom, hstaging, hresult, hvalue, hservices, hnjobs, hretest, hjobs, hpat, hseq⟩ :=
      powerOnValues_resetOf s.params
    exact ⟨hgeom, hstaging, hresult, hvalue, hservices, hnjobs, hretest, hjobs, hpat, hseq⟩
  · rw [complete_host]
    exact congrArg List.tail hhost

theorem memoriesOk_reset : MemoriesOk State.reset := ⟨rfl, rfl, fun _ _ => rfl⟩

theorem thresholdsOk_reset : ThresholdsOk State.reset where
  shape := shapeOk_stepKeeps.resetOf_holds _
  formats _ hj := absurd hj (Nat.not_lt_zero _)
  bound job hjob := by
    rw [List.eq_of_mem_replicate hjob]
    decide

/-- Settles O50: the invariants of the configuration hold when it is cleared. -/
theorem resetMeetsInvariants : Obligations.ResetMeetsInvariants :=
  ⟨memoriesOk_reset, patOk_stepKeeps.resetOf_holds _, thresholdsOk_reset, servicesOk_stepKeeps.resetOf_holds _,
    jobsOk_stepKeeps.resetOf_holds _⟩

end Sys2Proof.Safety
end

section
/-! What no instruction writes (spec/10_state.md rules R28, R31, R34, R41, spec/20_memory.md rule R61). -/

namespace Sys2Proof.Machine

/-! ## The frame of a command -/

/-- `t` has of `s` what no command writes: the host's side, the sequencer position, the geometry and the operands. -/
structure CommandFrame (s t : State) : Prop where
  params : t.params = s.params
  geom : t.geom = s.geom
  staging : t.staging = s.staging
  seq : t.seq = s.seq
  raw : t.raw = s.raw
  rawBytes : t.rawBytes = s.rawBytes
  reply : t.reply = s.reply
  host : t.host = s.host

namespace CommandFrame

variable {s t u : State}

theorem refl (s : State) : CommandFrame s s := ⟨rfl, rfl, rfl, rfl, rfl, rfl, rfl, rfl⟩

/-- An update that leaves those registers alone keeps the frame. -/
theorem trans (h : CommandFrame s t) (h' : CommandFrame t u) : CommandFrame s u :=
  ⟨h'.params.trans h.params, h'.geom.trans h.geom, h'.staging.trans h.staging, h'.seq.trans h.seq, h'.raw.trans h.raw,
    h'.rawBytes.trans h.rawBytes, h'.reply.trans h.reply, h'.host.trans h.host⟩

theorem raise (c : ResultCode) (s : State) : CommandFrame s (raise c s) := ⟨rfl, rfl, rfl, rfl, rfl, rfl, rfl, rfl⟩

theorem finish (c : ResultCode) (v : BitVec 32) (s : State) : CommandFrame s (finish c v s) :=
  ⟨rfl, rfl, rfl, rfl, rfl, rfl, rfl, rfl⟩

theorem cmdReset (s : State) : CommandFrame s (cmdReset s) := ⟨rfl, rfl, rfl, rfl, rfl, rfl, rfl, rfl⟩

theorem cmdJobadd (s : State) : CommandFrame s (cmdJobadd s) := by
  rcases cmdJobadd_cases s with ⟨c, -, he⟩ | ⟨j, -, -, -, -, he⟩ <;> rw [he]
  · exact raise c s
  · obtain ⟨pat, -, he⟩ := reserveRows_eq j (stagedRows s.staging) s
    rw [he]
    exact ⟨rfl, rfl, rfl, rfl, rfl, rfl, rfl, rfl⟩

theorem cmdRmsvc (s : State) : CommandFrame s (cmdRmsvc s) := by
  obtain ⟨pat, jobs, njobs, he⟩ := removeLoop_eq s.staging.id s.njobs.toNat 0 s
  unfold Machine.cmdRmsvc
  rw [he]
  exact ⟨rfl, rfl, rfl, rfl, rfl, rfl, rfl, rfl⟩

theorem walkKeeps (s : State) : WalkKeeps (CommandFrame s) where
  retire _ h := h.trans ⟨rfl, rfl, rfl, rfl, rfl, rfl, rfl, rfl⟩
  track _ _ _ _ _ h _ _ := h.trans ⟨rfl, rfl, rfl, rfl, rfl, rfl, rfl, rfl⟩
  hit _ _ _ _ _ _ _ h _ _ _ _ _ _ _ := h.trans ⟨rfl, rfl, rfl, rfl, rfl, rfl, rfl, rfl⟩
  rest _ _ _ h _ _ _ := h.trans ⟨rfl, rfl, rfl, rfl, rfl, rfl, rfl, rfl⟩

theorem cmdDecode (s : State) : CommandFrame s (cmdDecode s) :=
  (walkKeeps s).cmdDecode_keeps (fun c t h => h.trans (raise c t)) (fun c v t h => h.trans (finish c v t))
    (fun _ _ h => h.trans ⟨rfl, rfl, rfl, rfl, rfl, rfl, rfl, rfl⟩) s (refl s)

theorem runSlice (j base : Nat) (s : State) : CommandFrame s (runSlice j base s).2 := by
  rcases runSlice_cases j base s with ⟨bits, thresh, -, he⟩ | ⟨-, he⟩ | ⟨-, he⟩ <;> rw [he] <;>
    exact ⟨rfl, rfl, rfl, rfl, rfl, rfl, rfl, rfl⟩

theorem cmdSlice (a : BitVec 3) (b : BitVec 16) (s : State) : CommandFrame s (cmdSlice a b s) := by
  have hrun := runSlice a.toNat s.staging.addr.toNat s
  rcases cmdSlice_cases a b s with ⟨-, he⟩ | ⟨-, -, he⟩ | ⟨-, -, ⟨bytes, t, hs, he⟩ | ⟨t, hs, he⟩ | ⟨t, hs, he⟩⟩ <;>
    rw [he]
  · exact raise _ s
  · exact raise _ s
  all_goals
    rw [hs] at hrun
    exact hrun.trans ⟨rfl, rfl, rfl, rfl, rfl, rfl, rfl, rfl⟩

theorem executeCommand (w : BitVec 32) (s : State) : CommandFrame s (executeCommand w s) := by
  rcases executeCommand_cases w s with he | he | he | he | ⟨a, b, he⟩ | he <;> rw [he]
  · exact cmdReset s
  · exact cmdJobadd s
  · exact cmdRmsvc s
  · exact cmdDecode s
  · exact cmdSlice a b s
  · exact raise _ s

end CommandFrame

/-! ## RETEST -/

theorem cmdJobadd_retest (s : State) : (cmdJobadd s).retest = s.retest := by
  rcases cmdJobadd_cases s with ⟨c, -, he⟩ | ⟨j, -, -, -, -, he⟩ <;> rw [he]
  · rfl
  · obtain ⟨pat, -, he⟩ := reserveRows_eq j (stagedRows s.staging) s
    rw [he]
    rfl

theorem cmdRmsvc_retest (s : State) : (cmdRmsvc s).retest = s.retest := by
  obtain ⟨pat, jobs, njobs, he⟩ := removeLoop_eq s.staging.id s.njobs.toNat 0 s
  unfold cmdRmsvc
  rw [he]
  rfl

theorem cmdSlice_retest (a : BitVec 3) (b : BitVec 16) (s : State) : (cmdSlice a b s).retest = s.retest := by
  have hrun : (runSlice a.toNat s.staging.addr.toNat s).2.retest = s.retest := by
    rcases runSlice_cases a.toNat s.staging.addr.toNat s with ⟨bits, thresh, -, he⟩ | ⟨-, he⟩ | ⟨-, he⟩ <;>
      rw [he] <;> rfl
  rcases cmdSlice_cases a b s with ⟨-, he⟩ | ⟨-, -, he⟩ | ⟨-, -, ⟨bytes, t, hs, he⟩ | ⟨t, hs, he⟩ | ⟨t, hs, he⟩⟩ <;>
    rw [he]
  · rfl
  · rfl
  all_goals
    rw [hs] at hrun
    exact hrun

/-- A command word is its three fields. -/
theorem command_eq (w : BitVec 32) : commandWord (commandOp w) (commandA w) (commandB w) = w := by
  refine BitVec.eq_of_getLsbD_eq fun k hk => ?_
  simp only [commandWord, commandOp, commandA, commandB, BitVec.getLsbD_append, BitVec.getLsbD_extractLsb']
  by_cases h8 : k < 8
  · simp [h8]
  · by_cases h16 : k - 8 < 8
    · simp [h8, h16, show 8 + (k - 8) = k by omega]
    · simp [h8, h16, show 16 + (k - 8 - 8) = k by omega, show k - 8 - 8 < 16 by omega]

/-- DECODE has one command word (spec/30_encoding.md rule R98). -/
theorem eq_of_commandOf_decode {w : BitVec 32} (h : commandOf w = some .decode) : w = 4 := by
  unfold commandOf at h
  split at h
  · split at h <;> simp at h
  split at h
  · next hzero =>
    obtain ⟨ha, hb⟩ := hzero
    split at h
    · simp at h
    split at h
    · simp at h
    split at h
    · simp at h
    split at h
    · next hop =>
      rw [← command_eq w, hop, ha, hb]
      decide
    · simp at h
  · simp at h

theorem executeCommand_retest {w : BitVec 32} (hw : w ≠ 4) (s : State) : (executeCommand w s).retest = s.retest := by
  unfold executeCommand
  split
  · rfl
  · exact cmdJobadd_retest s
  · exact cmdRmsvc_retest s
  · next hdecode => exact absurd (eq_of_commandOf_decode hdecode) hw
  · exact cmdSlice_retest _ _ s
  all_goals rfl

/-! ## Register numbers (spec/30_encoding.md rule R94) -/

theorem regName_geom_le {reg : BitVec 7} {g : GeomReg} (h : regName reg = .geom g) : reg.toNat ≤ 0x09 := by
  unfold regName at h
  split at h <;> simp_all

theorem regName_stage_range {reg : BitVec 7} {a : StageReg} (h : regName reg = .stage a) :
    0x10 ≤ reg.toNat ∧ reg.toNat ≤ 0x1C := by
  unfold regName at h
  split at h <;> simp_all

theorem regName_cmd_eq {reg : BitVec 7} (h : regName reg = .cmd) : reg = 0x7F := by
  apply BitVec.eq_of_toNat_eq
  unfold regName at h
  split at h <;> simp_all

/-! ## Register writes -/

theorem writeReg_of_cmd {reg : BitVec 7} (h : regName reg = .cmd) (data : BitVec 32) (s : State) :
    writeReg reg data s = executeCommand data s := by
  simp only [writeReg, h]

theorem writeReg_of_geom {reg : BitVec 7} {g : GeomReg} (h : regName reg = .geom g) (data : BitVec 32) (s : State) :
    writeReg reg data s = writeGeometry g data s := by
  simp only [writeReg, h]

theorem writeReg_of_stage {reg : BitVec 7} {a : StageReg} (h : regName reg = .stage a) (data : BitVec 32) (s : State) :
    writeReg reg data s = { s with staging := writeStage s.staging data a } := by
  simp only [writeReg, h]

theorem writeReg_of_status {reg : BitVec 7} {r : StatusReg} (h : regName reg = .status r) (data : BitVec 32) (s : State) :
    writeReg reg data s = s := by
  simp only [writeReg, h]

theorem writeReg_of_reserved {reg : BitVec 7} (h : regName reg = .reserved) (data : BitVec 32) (s : State) :
    writeReg reg data s = s := by
  simp only [writeReg, h]

theorem writeGeometry_locked {s : State} (h : s.njobs ≠ 0) (g : GeomReg) (v : BitVec 32) :
    writeGeometry g v s = raise .geomLocked s := if_pos h

/-- No register write touches what the host owns. -/
theorem writeReg_hostOwned (reg : BitVec 7) (data : BitVec 32) (s : State) :
    (writeReg reg data s).raw = s.raw ∧ (writeReg reg data s).rawBytes = s.rawBytes ∧
    (writeReg reg data s).params = s.params ∧ (writeReg reg data s).seq = s.seq ∧
    (writeReg reg data s).host = s.host ∧ (writeReg reg data s).reply = s.reply := by
  rcases writeReg_cases reg data s with he | he | ⟨g, -, he⟩ | ⟨a, he⟩ | he <;> rw [he]
  · have h := CommandFrame.executeCommand data s
    exact ⟨h.raw, h.rawBytes, h.params, h.seq, h.host, h.reply⟩
  all_goals exact ⟨rfl, rfl, rfl, rfl, rfl, rfl⟩

theorem writeReg_geom {reg : BitVec 7} {s : State} (h : s.njobs ≠ 0 ∨ 0x09 < reg.toNat) (data : BitVec 32) :
    (writeReg reg data s).geom = s.geom := by
  cases hreg : regName reg with
  | geom g =>
    have hle := regName_geom_le hreg
    rw [writeReg_of_geom hreg, writeGeometry_locked (h.resolve_right (by omega))]
    rfl
  | stage a => rw [writeReg_of_stage hreg]
  | status r => rw [writeReg_of_status hreg]
  | cmd => rw [writeReg_of_cmd hreg, (CommandFrame.executeCommand data s).geom]
  | reserved => rw [writeReg_of_reserved hreg]

theorem writeGeometry_staging_retest (g : GeomReg) (v : BitVec 32) (s : State) :
    (writeGeometry g v s).staging = s.staging ∧ (writeGeometry g v s).retest = s.retest := by
  unfold writeGeometry
  split <;> exact ⟨rfl, rfl⟩

theorem writeReg_staging {reg : BitVec 7} (h : ¬ (0x10 ≤ reg.toNat ∧ reg.toNat ≤ 0x1C)) (data : BitVec 32) (s : State) :
    (writeReg reg data s).staging = s.staging := by
  cases hreg : regName reg with
  | geom g => rw [writeReg_of_geom hreg, (writeGeometry_staging_retest g data s).1]
  | stage a => exact absurd (regName_stage_range hreg) h
  | status r => rw [writeReg_of_status hreg]
  | cmd => rw [writeReg_of_cmd hreg, (CommandFrame.executeCommand data s).staging]
  | reserved => rw [writeReg_of_reserved hreg]

theorem writeReg_retest {reg : BitVec 7} {data : BitVec 32} (h : ¬ (reg = 0x7F ∧ data = 4)) (s : State) :
    (writeReg reg data s).retest = s.retest := by
  cases hreg : regName reg with
  | geom g => rw [writeReg_of_geom hreg, (writeGeometry_staging_retest g data s).2]
  | stage a => rw [writeReg_of_stage hreg]
  | status r => rw [writeReg_of_status hreg]
  | cmd =>
    rw [writeReg_of_cmd hreg]
    exact executeCommand_retest (fun h4 => h ⟨regName_cmd_eq hreg, h4⟩) s
  | reserved => rw [writeReg_of_reserved hreg]

/-! ## Every instruction -/

/-- A completed command leaves what the host owns, and takes its transaction off the host's list. -/
theorem CommandFrame.hostOwned {s t : State} (h : CommandFrame s t) {i : Instr} (he : exec i s = .next (complete t)) :
    ∃ u, exec i s = .next u ∧ u.raw = s.raw ∧ u.rawBytes = s.rawBytes ∧ u.params = s.params ∧ u.seq = s.seq ∧
      u.host = s.host.tail ∧ ((∀ reg, i ≠ .rd reg) → u.reply = s.reply) :=
  ⟨_, he, h.raw, h.rawBytes, h.params, h.seq, congrArg List.tail h.host, fun _ => h.reply⟩

/-- Settles O46: a register read, a register write, and the five commands by their frame. -/
theorem everyInstructionKeepsHostOwned : Obligations.EveryInstructionKeepsHostOwned := by
  intro i s
  cases i with
  | rd reg => exact ⟨_, rfl, rfl, rfl, rfl, rfl, rfl, fun h => absurd rfl (h reg)⟩
  | wr reg data =>
    obtain ⟨hraw, hbytes, hparams, hseq, hhost, hreply⟩ := writeReg_hostOwned reg data s
    exact ⟨_, rfl, hraw, hbytes, hparams, hseq, congrArg List.tail hhost, fun _ => hreply⟩
  | reset => exact (CommandFrame.cmdReset s).hostOwned rfl
  | jobadd => exact (CommandFrame.cmdJobadd s).hostOwned rfl
  | rmsvc => exact (CommandFrame.cmdRmsvc s).hostOwned rfl
  | decode => exact (CommandFrame.cmdDecode s).hostOwned rfl
  | slice a b => exact (CommandFrame.cmdSlice a b s).hostOwned rfl

/-- Settles O47: no command writes the geometry, and a register write stores it only unlocked, at a number up to 0x09. -/
theorem geometryChangesOnlyUnlocked : Obligations.GeometryChangesOnlyUnlocked := by
  intro i s t he h
  cases i <;> cases he
  case rd => rfl
  case wr reg data => exact writeReg_geom (h.imp_right fun h => h reg data rfl) data
  case reset => rfl
  case jobadd => exact (CommandFrame.cmdJobadd s).geom
  case rmsvc => exact (CommandFrame.cmdRmsvc s).geom
  case decode => exact (CommandFrame.cmdDecode s).geom
  case slice a b => exact (CommandFrame.cmdSlice a b s).geom

/-- Settles O48: no command writes the operands, and `RETEST` is written by DECODE's one command word alone. -/
theorem stagingAndRetestWriters : Obligations.StagingAndRetestWriters := by
  intro i s t he
  cases i <;> cases he
  case rd => exact ⟨fun _ => rfl, fun _ _ => rfl⟩
  case wr reg data =>
    refine ⟨fun h => writeReg_staging (h reg data rfl) data s, fun _ h => writeReg_retest ?_ s⟩
    rintro ⟨rfl, rfl⟩
    exact h rfl
  case reset => exact ⟨fun _ => rfl, fun _ _ => rfl⟩
  case jobadd => exact ⟨fun _ => (CommandFrame.cmdJobadd s).staging, fun _ _ => cmdJobadd_retest s⟩
  case rmsvc => exact ⟨fun _ => (CommandFrame.cmdRmsvc s).staging, fun _ _ => cmdRmsvc_retest s⟩
  case decode => exact ⟨fun _ => (CommandFrame.cmdDecode s).staging, fun h => absurd rfl h⟩
  case slice a b => exact ⟨fun _ => (CommandFrame.cmdSlice a b s).staging, fun _ _ => cmdSlice_retest a b s⟩

end Sys2Proof.Machine
end

section
/-! ADDSVC (spec/42_config.md rules R210 to R217): the transactions it issues, its acceptance tests as the rules write them,
and its loop, entry by entry. -/

namespace Sys2Proof.Machine

open Sys2Proof.Safety

/-! ## Transactions the host issues -/

theorem wrField_transactionWord (wr : BitVec 1) (reg : BitVec 7) (data : BitVec 32) :
    wrField (transactionWord wr reg data) = wr.getLsbD 0 := by
  simp only [wrField, transactionWord, BitVec.getLsbD_append]
  simp

theorem regField_transactionWord (wr : BitVec 1) (reg : BitVec 7) (data : BitVec 32) :
    regField (transactionWord wr reg data) = reg := by
  refine BitVec.eq_of_getLsbD_eq fun k hk => ?_
  simp only [regField, transactionWord, BitVec.getLsbD_append, BitVec.getLsbD_extractLsb']
  simp [hk]

theorem dataField_transactionWord (wr : BitVec 1) (reg : BitVec 7) (data : BitVec 32) :
    dataField (transactionWord wr reg data) = data := by
  refine BitVec.eq_of_getLsbD_eq fun k hk => ?_
  simp only [dataField, transactionWord, BitVec.getLsbD_append, BitVec.getLsbD_extractLsb']
  simp [hk]

theorem decode_encode_rd (reg : BitVec 7) : decode (encode (.rd reg)) = .rd reg := by
  simp [decode, encode, wrField_transactionWord, regField_transactionWord]

theorem decode_encode_wr {reg : BitVec 7} (h : reg ≠ cmdNumber) (data : BitVec 32) :
    decode (encode (.wr reg data)) = .wr reg data := by
  have hwr : (1 : BitVec 1).getLsbD 0 = true := rfl
  simp only [decode, encode, wrField_transactionWord, regField_transactionWord, dataField_transactionWord, hwr, if_true,
    if_neg h]

/-- `s` with the host about to issue the instruction `i`. -/
def presented (i : Instr) (s : State) : State := { s with host := .transaction (encode i) :: s.host }

theorem issue_eq {i : Instr} {s t : State} (hseq : s.seq = .idle) (hdecode : decode (encode i) = i)
    (he : exec i (presented i s) = .next t) : issue i s = t := by
  have hstep : step (presented i s) = .next t := calc
    step (presented i s) = exec (decode (encode i)) (presented i s) := by simp only [step, presented, hseq]
    _ = .next t := by rw [hdecode, he]
  unfold issue
  change (match step (presented i s) with | .next t => t | .fault _ => s | .refused _ => s) = t
  rw [hstep]

theorem issueRd_eq {s : State} (hseq : s.seq = .idle) (reg : BitVec 7) :
    issueRd reg s = ({ s with reply := some (readReg s reg) }, readReg s reg) := by
  have h : issue (.rd reg) s = { s with reply := some (readReg s reg) } :=
    issue_eq hseq (decode_encode_rd reg) rfl
  simp [issueRd, h]

theorem issueWr_stage {s : State} (hseq : s.seq = .idle) {reg : BitVec 7} {a : StageReg} (h : regName reg = .stage a)
    (data : BitVec 32) : issueWr reg data s = { s with staging := writeStage s.staging data a } := by
  have hcmd : reg ≠ cmdNumber := by
    rintro rfl
    cases h
  refine issue_eq hseq (decode_encode_wr hcmd data) ?_
  change Host.Outcome.next (complete (writeReg reg data _)) = _
  rw [writeReg_of_stage h]
  rfl

/-- The staging registers after the register writes of one accepted entry. -/
def entryStaging (hp : Config.HostParams) (g : Geometry) (e : Config.ServiceEntry) (strictness : Nat)
    (rows : BitVec 32 × BitVec 32) (old : Staging) : Staging :=
  { old with
    id := e.id
    group := e.group
    offset := BitVec.ofNat 32 (leadingSkip hp g strictness * (descriptorOrFree g.pixfmt).stride)
    criFrc := e.criFrc
    criMask := e.criMask
    bits := entryBits e
    criRate := e.criRate
    bitRate := e.bitRate
    payload := e.payloadBits
    rows0 := rows.1
    rows1 := rows.2 }

theorem issueWrs_entryWrites {s : State} (hseq : s.seq = .idle) (hp : Config.HostParams) (g : Geometry)
    (e : Config.ServiceEntry) (strictness : Nat) (rows : BitVec 32 × BitVec 32) :
    issueWrs (entryWrites hp g e strictness rows) s =
      { s with staging := entryStaging hp g e strictness rows s.staging } := by
  have hwrite : ∀ (a : StageReg) (reg : BitVec 7) (data : BitVec 32) (rest : List (BitVec 7 × BitVec 32)) (old : Staging),
      regName reg = .stage a → issueWrs ((reg, data) :: rest) { s with staging := old } =
        issueWrs rest { s with staging := writeStage old data a } := fun a reg data rest old h => by
    rw [issueWrs, issueWr_stage (s := { s with staging := old }) hseq h]
  change issueWrs _ { s with staging := s.staging } = _
  rw [entryWrites, hwrite .id _ _ _ _ rfl, hwrite .group _ _ _ _ rfl, hwrite .offset _ _ _ _ rfl,
    hwrite .criFrc _ _ _ _ rfl, hwrite .criMask _ _ _ _ rfl, hwrite .bits _ _ _ _ rfl, hwrite .criRate _ _ _ _ rfl,
    hwrite .bitRate _ _ _ _ rfl, hwrite .payload _ _ _ _ rfl, hwrite .rows0 _ _ _ _ rfl, hwrite .rows1 _ _ _ _ rfl]
  rfl

/-! ## The operands of an entry, in arithmetic (rules R96, R97, R212) -/

theorem toNat_append_eq_add {m n : Nat} (x : BitVec m) (y : BitVec n) : (x ++ y).toNat = x.toNat * 2 ^ n + y.toNat := by
  rw [BitVec.toNat_append, ← Nat.shiftLeft_add_eq_or_of_lt y.isLt, Nat.shiftLeft_eq]

theorem entryBits_eq (e : Config.ServiceEntry) :
    entryBits e = BitVec.ofNat 32 (e.criBits.toNat + 256 * e.frcBits.toNat + 65536 * e.modulation.toNat) := by
  apply BitVec.eq_of_toNat_eq
  have hcri := e.criBits.isLt
  have hfrc := e.frcBits.isLt
  have hmod := e.modulation.isLt
  simp only [entryBits, toNat_append_eq_add, BitVec.toNat_ofNat, show (0 : BitVec 14).toNat = 0 from rfl,
    show (0 : BitVec 2).toNat = 0 from rfl]
  omega

/-- Two row ranges `(first, count)`, packed as `A_ROWS0`, `A_ROWS1` (rule R97). -/
def packedRanges (r0 r1 : Nat × Nat) : BitVec 32 × BitVec 32 :=
  (BitVec.ofNat 16 r0.2 ++ BitVec.ofNat 16 r0.1, BitVec.ofNat 16 r1.2 ++ BitVec.ofNat 16 r1.1)

theorem packedRange_eq (first count : Nat) :
    BitVec.ofNat 16 count ++ BitVec.ofNat 16 first = BitVec.ofNat 32 (count % 65536 * 65536 + first % 65536) := by
  apply BitVec.eq_of_toNat_eq
  simp only [toNat_append_eq_add, BitVec.toNat_ofNat]
  omega

theorem windowApplies_iff {g : Geometry} {strictness : Nat} :
    windowApplies g strictness = true ↔ 1 ≤ strictness ∧ 0 < g.offset.toNat := by
  simp [windowApplies]

theorem leadingSkip_eq (hp : Config.HostParams) (g : Geometry) (strictness : Nat) :
    leadingSkip hp g strictness = skippedSamples hp g strictness := by
  have hfloor : ∀ burst : ℕ,
      ⌊((burst : ℚ) * g.rate.toNat / 10 ^ 9 : ℚ)⌋ = ((burst * g.rate.toNat / 10 ^ 9 : ℕ) : ℤ) := fun burst => by
    have hcast : ((burst : ℚ) * g.rate.toNat / 10 ^ 9 : ℚ) =
        ((burst * g.rate.toNat : ℕ) : ℚ) / ((10 ^ 9 : ℕ) : ℚ) := by
      push_cast
      rfl
    rw [hcast, Rat.floor_natCast_div_natCast, Int.natCast_div]
  simp only [leadingSkip, skippedSamples, windowApplies_iff, burstEnd, hfloor]
  split
  · split <;> omega
  · rfl

theorem entryStaging_eq_operandsOf {g : Geometry} {d : Config.PixelDescriptor} (hd : descriptorOf g.pixfmt = some d)
    (hp : Config.HostParams) (e : Config.ServiceEntry) (strictness : Nat) (r0 r1 : Nat × Nat) (old : Staging) :
    entryStaging hp g e strictness (packedRanges r0 r1) old = operandsOf hp g strictness e d r0 r1 old := by
  simp only [entryStaging, packedRanges, operandsOf, entryBits_eq, packedRange_eq, leadingSkip_eq, descriptorOrFree_of_some hd]

/-! ## The acceptance tests as the rules write them -/

theorem quotient_of_ne {w : Nat} {q : BitVec w} (h : q ≠ 0) (p : ℚ) : quotient p q.toNat = p / q.toNat := by
  refine if_neg fun h0 => h (BitVec.eq_of_toNat_eq ?_)
  simpa using h0

theorem windowOk_iff {g : Geometry} {e : Config.ServiceEntry} {d : Config.PixelDescriptor} (h : RatesGiven g e d)
    (hp : Config.HostParams) (strictness : Nat) :
    windowOk hp g e strictness = true ↔ FitsWindow hp g strictness e d := by
  have hsignal : signalNs e = signalOf e := by
    rw [signalNs, signalOf, quotient_of_ne h.criRate, quotient_of_ne h.bitRate]
  have hline : lineSamplesOf g = g.bpl.toNat / d.stride := by rw [lineSamplesOf, descriptorOrFree_of_some h.format]
  unfold windowOk FitsWindow
  by_cases happlies : windowApplies g strictness = true
  · rw [if_pos happlies, if_pos (windowApplies_iff.mp happlies)]
    simp only [windowCheck, quotient_of_ne h.rate, hsignal, hline, Bool.and_eq_true, Bool.not_eq_true',
      decide_eq_false_iff_not, not_lt]
  · rw [if_neg happlies, if_neg (windowApplies_iff.not.mp happlies)]
    simp only [lengthCheck, quotient_of_ne h.rate, hsignal, hline, Bool.not_eq_true', decide_eq_false_iff_not, not_lt]

theorem carriesNoSignal_iff {e : Config.ServiceEntry} :
    carriesNoSignal e = true ↔ e.criBits = 0 ∧ e.frcBits = 0 ∧ e.payloadBits = 0 := by
  simp [carriesNoSignal, and_assoc]

theorem entryHasScan_iff {e : Config.ServiceEntry} {scan : Nat} :
    entryHasScan e scan = true ↔ (scan = 525 ∧ e.scan525 = true) ∨ (scan = 625 ∧ e.scan625 = true) := by
  simp [entryHasScan]

theorem rowRanges_eq_some_iff {g : Geometry} {e : Config.ServiceEntry} {strictness : Nat} {rows : BitVec 32 × BitVec 32} :
    rowRanges g e strictness = some rows ↔ ∃ r0 r1 : Nat × Nat,
      fieldRange strictness e.first0 e.last0 g.start0.toNat g.count0.toNat 0 = some r0 ∧
      fieldRange strictness e.first1 e.last1 g.start1.toNat g.count1.toNat g.count0.toNat = some r1 ∧
      rows = packedRanges r0 r1 := by
  unfold rowRanges packedRanges
  cases fieldRange strictness e.first0 e.last0 g.start0.toNat g.count0.toNat 0 <;>
    cases fieldRange strictness e.first1 e.last1 g.start1.toNat g.count1.toNat g.count0.toNat <;>
      simp [eq_comm]

/-- An accepted entry is eligible and passes the window test. -/
theorem eligible_of_acceptEntry {hp : Config.HostParams} {g : Geometry} {requested : BitVec 32} {strictness : Nat}
    {e : Config.ServiceEntry} {writes : List (BitVec 7 × BitVec 32)}
    (h : acceptEntry hp g requested strictness e = some writes) :
    windowOk hp g e strictness = true ∧ ∃ r0 r1, Eligible g requested strictness e r0 r1 := by
  obtain ⟨hasked, hsignal, hscan, hwindow, hsync, rows, hrows, -⟩ := acceptEntry_some h
  obtain ⟨r0, r1, h0, h1, -⟩ := rowRanges_eq_some_iff.mp hrows
  refine ⟨hwindow, r0, r1, hasked, fun hno => ?_, entryHasScan_iff.mp hscan, hsync, h0, h1⟩
  rw [carriesNoSignal_iff.mpr hno] at hsignal
  cases hsignal

/-- An eligible entry that passes the window test is accepted, with the operands of its row ranges. -/
theorem acceptEntry_of_eligible {hp : Config.HostParams} {g : Geometry} {requested : BitVec 32} {strictness : Nat}
    {e : Config.ServiceEntry} {r0 r1 : Nat × Nat} (h : Eligible g requested strictness e r0 r1)
    (hwindow : windowOk hp g e strictness = true) :
    acceptEntry hp g requested strictness e = some (entryWrites hp g e strictness (packedRanges r0 r1)) := by
  have hsignal : carriesNoSignal e = false := Bool.eq_false_iff.mpr fun hno => h.signal (carriesNoSignal_iff.mp hno)
  have hrows := rowRanges_eq_some_iff.mpr ⟨r0, r1, h.field0, h.field1, rfl⟩
  have hsync : synchronous g = true := h.synchronous
  rw [acceptEntry, if_neg h.asked]
  simp [hsignal, entryHasScan_iff.mpr h.standard, hwindow, hsync, hrows]

/-! ## The loop, entry by entry (rule R210) -/

/-- ADDSVC at its end: `SERVICES` is read. -/
def addsvcEnded (granted : BitVec 32) (s : State) : State × HostReply :=
  ({ s with reply := some s.services }, .services s.services granted)

/-- The state after the read of `NJOBS`. -/
def addsvcLooked (s : State) : State := { s with reply := some (BitVec.ofNat 32 s.njobs.toNat) }

/-- The state after an entry's operands are written and JOBADD has run. -/
def addsvcAdded (hp : Config.HostParams) (strictness : Nat) (e : Config.ServiceEntry) (rows : BitVec 32 × BitVec 32)
    (s : State) : State :=
  complete (cmdJobadd (presented .jobadd
    { addsvcLooked s with staging := entryStaging hp s.geom e strictness rows s.staging }))

/-- The state after the read of `R_RESULT`. -/
def addsvcTold (t : State) : State := { t with reply := some (BitVec.ofNat 32 t.result.toNat) }

theorem setWidth_eq_ofNat_toNat {w : Nat} (x : BitVec w) : x.setWidth 32 = BitVec.ofNat 32 x.toNat := by
  apply BitVec.eq_of_toNat_eq
  simp

theorem addsvcAdded_seq {s : State} (hseq : s.seq = .idle) (hp : Config.HostParams) (strictness : Nat)
    (e : Config.ServiceEntry) (rows : BitVec 32 × BitVec 32) : (addsvcAdded hp strictness e rows s).seq = .idle :=
  (CommandFrame.cmdJobadd _).seq.trans hseq

theorem addsvcAdded_geom (hp : Config.HostParams) (strictness : Nat) (e : Config.ServiceEntry)
    (rows : BitVec 32 × BitVec 32) (s : State) : (addsvcAdded hp strictness e rows s).geom = s.geom :=
  (CommandFrame.cmdJobadd _).geom

theorem addsvcAdded_host (hp : Config.HostParams) (strictness : Nat) (e : Config.ServiceEntry)
    (rows : BitVec 32 × BitVec 32) (s : State) : (addsvcAdded hp strictness e rows s).host = s.host :=
  congrArg List.tail (CommandFrame.cmdJobadd _).host

section

variable {hp : Config.HostParams} {requested granted : BitVec 32} {strictness : Nat} {s : State}
  {e : Config.ServiceEntry} {rest : List Config.ServiceEntry}

theorem addsvcLoop_nil (hseq : s.seq = .idle) :
    addsvcLoop hp requested strictness [] granted s = addsvcEnded granted s := by
  rw [addsvcLoop, issueRd_eq hseq]
  rfl

/-- One entry: the read of `NJOBS`, and what follows it. -/
theorem addsvcLoop_cons (hseq : s.seq = .idle) :
    addsvcLoop hp requested strictness (e :: rest) granted s =
      if 8 ≤ s.njobs.toNat then addsvcEnded granted s
      else match acceptEntry hp s.geom requested strictness e with
        | none => addsvcLoop hp requested strictness rest granted (addsvcLooked s)
        | some writes =>
          let (s2, code) := issueRd 0x20 (issue .jobadd (issueWrs writes (addsvcLooked s)))
          if code = 0 then addsvcLoop hp requested strictness rest (granted ||| e.id) s2
          else if code = 4 ∨ code = 5 then (s2, .error code)
          else addsvcLoop hp requested strictness rest granted s2 := by
  have hread : issueRd 0x23 s = (addsvcLooked s, BitVec.ofNat 32 s.njobs.toNat) := by
    rw [issueRd_eq hseq, ← setWidth_eq_ofNat_toNat, addsvcLooked, ← setWidth_eq_ofNat_toNat]
    rfl
  have hnjobs : (BitVec.ofNat 32 s.njobs.toNat).toNat = s.njobs.toNat := by
    rw [BitVec.toNat_ofNat]
    omega
  have hended : issueRd 0x22 (addsvcLooked s) = ({ s with reply := some s.services }, s.services) :=
    issueRd_eq (s := addsvcLooked s) hseq 0x22
  rw [addsvcLoop, hread]
  simp only [hnjobs, hended]
  rfl

/-- With 8 Jobs the loop ends, whatever is left of the catalogue. -/
theorem addsvcLoop_full (hseq : s.seq = .idle) (h8 : 8 ≤ s.njobs.toNat) (l : List Config.ServiceEntry) :
    addsvcLoop hp requested strictness l granted s = addsvcEnded granted s := by
  cases l with
  | nil => exact addsvcLoop_nil hseq
  | cons e rest => rw [addsvcLoop_cons hseq, if_pos h8]

/-- An entry that is not accepted is passed over. -/
theorem addsvcLoop_passed (hseq : s.seq = .idle) (h8 : s.njobs.toNat < 8)
    (hnone : acceptEntry hp s.geom requested strictness e = none) :
    addsvcLoop hp requested strictness (e :: rest) granted s =
      addsvcLoop hp requested strictness rest granted (addsvcLooked s) := by
  rw [addsvcLoop_cons hseq, if_neg (by omega), hnone]

/-- An accepted entry is added, and granted, passed over or the end of ADDSVC as JOBADD answers. -/
theorem addsvcLoop_added (hseq : s.seq = .idle) (h8 : s.njobs.toNat < 8) {rows : BitVec 32 × BitVec 32}
    (hsome : acceptEntry hp s.geom requested strictness e = some (entryWrites hp s.geom e strictness rows)) :
    addsvcLoop hp requested strictness (e :: rest) granted s =
      let t := addsvcAdded hp strictness e rows s
      if t.result = 0 then addsvcLoop hp requested strictness rest (granted ||| e.id) (addsvcTold t)
      else if t.result = 4 ∨ t.result = 5 then (addsvcTold t, .error (BitVec.ofNat 32 t.result.toNat))
      else addsvcLoop hp requested strictness rest granted (addsvcTold t) := by
  have hissue : issue .jobadd (issueWrs (entryWrites hp s.geom e strictness rows) (addsvcLooked s)) =
      addsvcAdded hp strictness e rows s := by
    rw [issueWrs_entryWrites (s := addsvcLooked s) hseq]
    exact issue_eq hseq (by decide) rfl
  have hread : ∀ t : State, t.seq = .idle → issueRd 0x20 t =
      (addsvcTold t, BitVec.ofNat 32 t.result.toNat) := fun t ht => by
    rw [issueRd_eq ht, ← setWidth_eq_ofNat_toNat, addsvcTold, ← setWidth_eq_ofNat_toNat]
    rfl
  have hcode : ∀ (x : BitVec 8) (n : Nat), n < 256 →
      (BitVec.ofNat 32 x.toNat = BitVec.ofNat 32 n ↔ x = BitVec.ofNat 8 n) :=
    fun x n hn => by
      rw [← BitVec.toNat_inj, ← BitVec.toNat_inj]
      simp only [BitVec.toNat_ofNat]
      omega
  rw [addsvcLoop_cons hseq, if_neg (by omega), hsome]
  simp only [hissue, hread _ (addsvcAdded_seq hseq ..)]
  rw [show (0 : BitVec 32) = BitVec.ofNat 32 0 from rfl, show (4 : BitVec 32) = BitVec.ofNat 32 4 from rfl,
    show (5 : BitVec 32) = BitVec.ofNat 32 5 from rfl]
  simp only [hcode _ 0 (by omega), hcode _ 4 (by omega), hcode _ 5 (by omega)]
  rfl

end

end Sys2Proof.Machine
end

section
/-! ADDSVC over a whole catalogue (spec/42_config.md rules R210, R217). -/

namespace Sys2Proof.Machine

open Sys2Proof.Safety

variable {hp : Config.HostParams} {requested granted : BitVec 32} {strictness : Nat} {s : State}
  {e : Config.ServiceEntry} {rest : List Config.ServiceEntry}

theorem addsvcAdded_result_eq (rows : BitVec 32 × BitVec 32) :
    exec .jobadd (presented .jobadd
      { addsvcLooked s with staging := entryStaging hp s.geom e strictness rows s.staging }) =
      .next (addsvcAdded hp strictness e rows s) := rfl

/-- An entry is passed over, or its operands are written. -/
theorem addsvcEntry_cases (hp : Config.HostParams) (requested : BitVec 32) (strictness : Nat) (s : State)
    (e : Config.ServiceEntry) :
    acceptEntry hp s.geom requested strictness e = none ∨ ∃ rows,
      acceptEntry hp s.geom requested strictness e = some (entryWrites hp s.geom e strictness rows) := by
  cases hacc : acceptEntry hp s.geom requested strictness e with
  | none => exact .inl rfl
  | some writes =>
    obtain ⟨-, -, -, -, -, rows, -, rfl⟩ := acceptEntry_some hacc
    exact .inr ⟨rows, rfl⟩

/-! ## Entries without a signal (rule R217) -/

/-- The loop does not look at the last reply: its first transaction is a read. -/
theorem addsvcLoop_reply (hseq : s.seq = .idle) (reply : Option (BitVec 32)) (l : List Config.ServiceEntry) :
    addsvcLoop hp requested strictness l granted { s with reply := reply } =
      addsvcLoop hp requested strictness l granted s := by
  cases l with
  | nil => rw [addsvcLoop_nil hseq, addsvcLoop_nil (s := { s with reply := reply }) hseq]; rfl
  | cons e rest => rw [addsvcLoop_cons hseq, addsvcLoop_cons (s := { s with reply := reply }) hseq]; rfl

theorem addsvcLoop_looked (hseq : s.seq = .idle) (l : List Config.ServiceEntry) :
    addsvcLoop hp requested strictness l granted (addsvcLooked s) = addsvcLoop hp requested strictness l granted s :=
  addsvcLoop_reply hseq _ l

/-- The catalogue's entries without a signal change nothing. Of the host parameters the loop reads the margins, and the
catalogue it is given. -/
theorem addsvcLoop_filter (table : List Config.ServiceEntry) :
    ∀ {l : List Config.ServiceEntry} {granted : BitVec 32} {s : State}, s.seq = .idle →
      addsvcLoop hp requested strictness l granted s =
        addsvcLoop { hp with table := table } requested strictness (l.filter fun e => !carriesNoSignal e) granted s
  | [], _, _, _ => rfl
  | e :: rest, granted, s, hseq => by
    rcases le_or_gt 8 s.njobs.toNat with h8 | h8
    · rw [addsvcLoop_full hseq h8, addsvcLoop_full hseq h8]
    cases hsignal : carriesNoSignal e with
    | true =>
      rw [addsvcLoop_passed hseq h8 (acceptEntry_of_noSignal hsignal), List.filter_cons_of_neg (by simp [hsignal]),
        addsvcLoop_looked hseq, addsvcLoop_filter table hseq]
    | false =>
      rw [List.filter_cons_of_pos (by simp [hsignal])]
      rcases addsvcEntry_cases hp requested strictness s e with hnone | ⟨rows, hsome⟩
      · rw [addsvcLoop_passed hseq h8 hnone, addsvcLoop_passed (hp := { hp with table := table }) hseq h8 hnone]
        exact addsvcLoop_filter table (s := addsvcLooked s) hseq
      · have htold : (addsvcTold (addsvcAdded hp strictness e rows s)).seq = .idle := addsvcAdded_seq hseq ..
        rw [addsvcLoop_added hseq h8 hsome, addsvcLoop_added (hp := { hp with table := table }) hseq h8 hsome]
        simp only [addsvcLoop_filter table (l := rest) htold]
        rfl

/-! ## What ADDSVC leaves and returns -/

/-- What ADDSVC's result says of the state it started from. -/
structure AddsvcReturns (s : State) (out : State × HostReply) : Prop where
  geom : out.1.geom = s.geom
  host : out.1.host = s.host
  services : ∀ active granted, out.2 = .services active granted → active = out.1.services
  error : ∀ code, out.2 = .error code → code = 4 ∨ code = 5

theorem AddsvcReturns.trans {t : State} {out : State × HostReply} (h : AddsvcReturns t out) (hgeom : t.geom = s.geom)
    (hhost : t.host = s.host) : AddsvcReturns s out :=
  ⟨h.geom.trans hgeom, h.host.trans hhost, h.services, h.error⟩

theorem addsvcEnded_returns (granted : BitVec 32) (s : State) : AddsvcReturns s (addsvcEnded granted s) where
  geom := rfl
  host := rfl
  services _ _ h := by
    cases h
    rfl
  error _ h := by cases h

theorem addsvcError_returns {t : State} (h : t.result = 4 ∨ t.result = 5) :
    AddsvcReturns t (addsvcTold t, .error (BitVec.ofNat 32 t.result.toNat)) where
  geom := rfl
  host := rfl
  services _ _ h := by cases h
  error code he := by
    cases he
    rcases h with h | h <;> simp [h]

theorem addsvcLoop_returns :
    ∀ {l : List Config.ServiceEntry} {granted : BitVec 32} {s : State}, s.seq = .idle →
      AddsvcReturns s (addsvcLoop hp requested strictness l granted s)
  | [], granted, s, hseq => by
    rw [addsvcLoop_nil hseq]
    exact addsvcEnded_returns granted s
  | e :: rest, granted, s, hseq => by
    rcases le_or_gt 8 s.njobs.toNat with h8 | h8
    · rw [addsvcLoop_full hseq h8]
      exact addsvcEnded_returns granted s
    rcases addsvcEntry_cases hp requested strictness s e with hnone | ⟨rows, hsome⟩
    · rw [addsvcLoop_passed hseq h8 hnone, addsvcLoop_looked hseq]
      exact addsvcLoop_returns hseq
    · have htold : (addsvcTold (addsvcAdded hp strictness e rows s)).seq = .idle := addsvcAdded_seq hseq ..
      have hgeom := addsvcAdded_geom hp strictness e rows s
      have hhost := addsvcAdded_host hp strictness e rows s
      rw [addsvcLoop_added hseq h8 hsome]
      dsimp only
      split
      · exact (addsvcLoop_returns htold).trans hgeom hhost
      split
      · next hcode => exact (addsvcError_returns hcode).trans hgeom hhost
      · exact (addsvcLoop_returns htold).trans hgeom hhost

/-- Settles O56: the loop's equations, with the acceptance tests read as the rules write them, and two inductions over the
catalogue. -/
theorem addsvcReturnsServices : Obligations.AddsvcReturnsServices := by
  refine ⟨fun _ _ _ _ _ => rfl, fun hp requested granted strictness s hseq => ⟨addsvcLoop_nil hseq, fun e rest => ?_⟩,
    fun hp requested strictness s hseq => ?_, fun hp requested strictness s hseq => ?_⟩
  · have hpassed : s.njobs.toNat < 8 → (∀ writes, acceptEntry hp s.geom requested strictness e ≠ some writes) →
        addsvcLoop hp requested strictness (e :: rest) granted s =
          addsvcLoop hp requested strictness rest granted (addsvcLooked s) := fun h8 hnone =>
      addsvcLoop_passed hseq h8 (Option.eq_none_iff_forall_ne_some.mpr hnone)
    refine ⟨fun h8 => addsvcLoop_full hseq h8 _, fun h8 hno => hpassed h8 fun writes hacc => ?_,
      fun d h8 hrates => ⟨fun hfits => hpassed h8 fun writes hacc => ?_, fun r0 r1 hfits helig => ?_⟩⟩
    · obtain ⟨-, r0, r1, helig⟩ := eligible_of_acceptEntry hacc
      exact hno r0 r1 helig
    · exact hfits ((windowOk_iff hrates hp strictness).mp (eligible_of_acceptEntry hacc).1)
    · have hsome := acceptEntry_of_eligible helig ((windowOk_iff hrates hp strictness).mpr hfits)
      have hloop := addsvcLoop_added (granted := granted) (rest := rest) hseq h8 hsome
      have hadd := addsvcAdded_result_eq (hp := hp) (strictness := strictness) (s := s) (e := e)
        (packedRanges r0 r1)
      rw [entryStaging_eq_operandsOf hrates.format] at hadd
      refine ⟨_, hadd, fun h0 => ?_, fun h45 => ?_, fun h0 h4 h5 => ?_⟩
      · exact hloop.trans (if_pos h0)
      · refine hloop.trans ((if_neg ?_).trans (if_pos h45))
        rcases h45 with h | h <;> rw [h] <;> decide
      · exact hloop.trans ((if_neg h0).trans (if_neg (not_or.mpr ⟨h4, h5⟩)))
  · exact addsvcLoop_filter _ hseq
  · obtain ⟨hgeom, hhost, hservices, herror⟩ :=
      addsvcLoop_returns (hp := hp) (requested := requested) (strictness := strictness) (l := hp.table)
        (granted := 0) hseq
    exact ⟨hgeom, hhost, hservices, herror⟩

end Sys2Proof.Machine
end

section
/-! The block never reads OUT (spec/20_memory.md rule R62): an operation either carries other contents of OUT through
unchanged, or takes states that differ in OUT alone to states that differ in OUT alone. -/

namespace Sys2Proof.Machine

/-! ## States that differ in OUT alone -/

/-- `s` with other contents of OUT. -/
def State.withOut (s : State) (out : Memory) : State := { s with out := out }

@[simp] theorem withOut_params (s : State) (out : Memory) : (s.withOut out).params = s.params := rfl
@[simp] theorem withOut_geom (s : State) (out : Memory) : (s.withOut out).geom = s.geom := rfl
@[simp] theorem withOut_staging (s : State) (out : Memory) : (s.withOut out).staging = s.staging := rfl
@[simp] theorem withOut_njobs (s : State) (out : Memory) : (s.withOut out).njobs = s.njobs := rfl
@[simp] theorem withOut_retest (s : State) (out : Memory) : (s.withOut out).retest = s.retest := rfl
@[simp] theorem withOut_job (s : State) (out : Memory) (j : Nat) : (s.withOut out).job j = s.job j := rfl
@[simp] theorem withOut_row (s : State) (out : Memory) (r : Nat) : (s.withOut out).row r = s.row r := rfl

@[simp] theorem outputCap_withOut (s : State) (out : Memory) : outputCap (s.withOut out) = outputCap s := rfl
@[simp] theorem sharedJob_withOut (s : State) (out : Memory) : sharedJob (s.withOut out) = sharedJob s := rfl
@[simp] theorem rowsHaveRoom_withOut (j : Nat) (s : State) (out : Memory) :
    rowsHaveRoom j (s.withOut out) = rowsHaveRoom j s := rfl

/-- `u` is `s` with some contents of OUT. -/
def DiffersInOut (s u : State) : Prop := ∃ out, u = s.withOut out

theorem differsInOut_withOut (s : State) (out : Memory) : DiffersInOut s (s.withOut out) := ⟨out, rfl⟩

namespace DiffersInOut

variable {s u : State}

theorem eq_withOut (h : DiffersInOut s u) : u = { s with out := u.out } := by
  obtain ⟨out, rfl⟩ := h
  rfl

theorem raise (h : DiffersInOut s u) (c : ResultCode) : DiffersInOut (raise c s) (raise c u) := by
  obtain ⟨out, rfl⟩ := h
  exact differsInOut_withOut _ out

theorem finish (h : DiffersInOut s u) (c : ResultCode) (v : BitVec 32) :
    DiffersInOut (finish c v s) (finish c v u) := by
  obtain ⟨out, rfl⟩ := h
  exact differsInOut_withOut _ out

theorem complete (h : DiffersInOut s u) : DiffersInOut (complete s) (complete u) := by
  obtain ⟨out, rfl⟩ := h
  exact differsInOut_withOut _ out

/-- The store is the one operation whose outcome depends on OUT, and that outcome is OUT. -/
theorem storeOut (h : DiffersInOut s u) (a : Nat) (bs : List Byte) :
    DiffersInOut (storeOut a bs s) (storeOut a bs u) := by
  obtain ⟨out, rfl⟩ := h
  exact differsInOut_withOut _ (out.writeBytes a bs)

theorem setRow (h : DiffersInOut s u) (r : Nat) (row : Row) : DiffersInOut (setRow r row s) (setRow r row u) := by
  obtain ⟨out, rfl⟩ := h
  exact differsInOut_withOut _ out

/-- A hit writes the record of its own geometry, and promotes its own row. -/
theorem recordHit (h : DiffersInOut s u) (r i n : Nat) (v : Slot) (job : Job) (bytes : List Byte) :
    DiffersInOut (recordHit r i n v job bytes s) (recordHit r i n v job bytes u) := by
  obtain ⟨out, rfl⟩ := h
  exact differsInOut_withOut _ (out.writeBytes (recordBase n) (recordBytes s.geom job r bytes))

end DiffersInOut

/-! ## JOBADD and RMSVC carry OUT through -/

theorem reserveRows_withOut (j : Nat) (out : Memory) : ∀ (rows : List Nat) (s : State),
    reserveRows j rows (s.withOut out) = (reserveRows j rows s).withOut out
  | [], _ => rfl
  | r :: rows, s => reserveRows_withOut j out rows (setRow r (reserveRow j (s.row r)) s)

theorem commitJob_withOut (j : Nat) (s : State) (out : Memory) :
    commitJob j (s.withOut out) = (commitJob j s).withOut out := rfl

theorem raise_withOut (c : ResultCode) (s : State) (out : Memory) : raise c (s.withOut out) = (raise c s).withOut out := rfl

theorem jobaddAt_withOut (j : Nat) (s : State) (out : Memory) :
    jobaddAt j (s.withOut out) = (jobaddAt j s).withOut out := by
  by_cases hroom : rowsHaveRoom j s = true
  · simp [jobaddAt, hroom, reserveRows_withOut, commitJob_withOut]
  · simp [jobaddAt, hroom, raise_withOut]

theorem cmdJobadd_withOut (s : State) (out : Memory) : cmdJobadd (s.withOut out) = (cmdJobadd s).withOut out := by
  unfold cmdJobadd
  simp only [withOut_geom, withOut_staging, withOut_params, withOut_njobs, sharedJob_withOut, jobaddAt_withOut,
    raise_withOut]
  split
  · rfl
  split
  · rfl
  split
  · rfl
  split <;> rfl

theorem cmdJobadd_out (s : State) : (cmdJobadd s).out = s.out := by
  have h := congrArg State.out (cmdJobadd_withOut s s.out)
  exact h

theorem removeLoop_withOut (requested : BitVec 32) (out : Memory) : ∀ (left i : Nat) (s : State),
    removeLoop requested left i (s.withOut out) = (removeLoop requested left i s).withOut out
  | 0, _, _ => rfl
  | left + 1, i, s => by
    rw [removeLoop, removeLoop, withOut_job]
    split
    · exact removeLoop_withOut requested out left i (removeJob i s)
    · exact removeLoop_withOut requested out left (i + 1) s

theorem cmdRmsvc_withOut (s : State) (out : Memory) : cmdRmsvc (s.withOut out) = (cmdRmsvc s).withOut out := by
  unfold cmdRmsvc
  rw [withOut_staging, withOut_njobs, removeLoop_withOut]
  rfl

theorem cmdRmsvc_out (s : State) : (cmdRmsvc s).out = s.out := by
  have h := congrArg State.out (cmdRmsvc_withOut s s.out)
  exact h

/-! ## SLICE -/

theorem runSlice_withOut (j base : Nat) (s : State) (out : Memory) :
    runSlice j base (s.withOut out) = ((runSlice j base s).1, (runSlice j base s).2.withOut out) := by
  rcases runSlice_cases j base s with ⟨bits, thresh, hs, he⟩ | ⟨hs, he⟩ | ⟨hs, he⟩ <;> rw [he]
  · exact runSlice_of_matched (s := s.withOut out) hs
  · exact runSlice_of_noMatch (s := s.withOut out) hs
  · exact runSlice_of_overrun (s := s.withOut out) hs

theorem runSlice_out (j base : Nat) (s : State) : (runSlice j base s).2.out = s.out :=
  congrArg (fun x => x.2.out) (runSlice_withOut j base s s.out)

theorem cmdSlice_differsInOut (a : BitVec 3) (b : BitVec 16) (s : State) (out : Memory) :
    DiffersInOut (cmdSlice a b s) (cmdSlice a b (s.withOut out)) := by
  have hs := differsInOut_withOut s out
  unfold cmdSlice
  simp only [withOut_njobs, withOut_params, withOut_staging, runSlice_withOut]
  split
  · exact hs.raise _
  split
  · exact hs.raise _
  rcases runSlice a.toNat s.staging.addr.toNat s with ⟨outcome, t⟩
  have ht := differsInOut_withOut t out
  cases outcome with
  | matched bytes => exact (ht.storeOut _ _).finish _ _
  | noMatch => exact ht.finish _ _
  | overrun => exact ht.finish _ _

/-! ## DECODE -/

/-- Two walks that end in the same way, with the same number of records, in states that differ in OUT alone. -/
def WalksAgree (x y : RowEnd × Nat × State) : Prop :=
  ∃ e n t u, x = (e, n, t) ∧ y = (e, n, u) ∧ DiffersInOut t u

theorem walksAgree_of {e : RowEnd} {n : Nat} {t u : State} (h : DiffersInOut t u) : WalksAgree (e, n, t) (e, n, u) :=
  ⟨e, n, t, u, rfl, rfl, h⟩

theorem walkSlots_agree {cap r : Nat} : ∀ (left i n : Nat) {s u : State}, DiffersInOut s u →
    WalksAgree (walkSlots cap r left i n s) (walkSlots cap r left i n u)
  | 0, _, _, _, _, h => walksAgree_of h
  | left + 1, i, n, s, _, ⟨out, rfl⟩ => by
    have hs := differsInOut_withOut s out
    rw [walkSlots, walkSlots]
    simp only [withOut_row, withOut_njobs, withOut_geom, withOut_job, withOut_params, withOut_retest, runSlice_withOut]
    split
    · split
      · exact walkSlots_agree left (i + 1) n hs
      split
      · exact walksAgree_of hs
      rcases runSlice _ _ s with ⟨outcome, t⟩
      have ht := differsInOut_withOut t out
      cases outcome with
      | matched bytes =>
        cases hcheck : checkPasses s.params (s.job ((slotAt (s.row r) i).toNat - 1)).id bytes with
        | true =>
          simp only [hcheck, if_true]
          exact walksAgree_of (ht.recordHit r i n _ _ bytes)
        | false =>
          simp only [hcheck, Bool.false_eq_true, if_false]
          exact walkSlots_agree left (i + 1) n ht
      | noMatch => exact walkSlots_agree left (i + 1) n ht
      | overrun => exact walksAgree_of ht
    · exact walksAgree_of (hs.setRow r _)

theorem walkRows_agree {cap : Nat} : ∀ (left r n : Nat) {s u : State}, DiffersInOut s u →
    WalksAgree (walkRows cap left r n s) (walkRows cap left r n u)
  | 0, _, _, _, _, h => walksAgree_of h
  | left + 1, r, n, s, u, h => by
    obtain ⟨e, n', t, t', hx, hy, ht⟩ := walkSlots_agree (cap := cap) (r := r) Config.maxWays 0 n h
    rw [walkRows, walkRows, hx, hy]
    cases e with
    | ended => exact walkRows_agree left (r + 1) n' ht
    | full => exact walksAgree_of ht
    | overrun => exact walksAgree_of ht

theorem DiffersInOut.finishDecode {s u : State} (h : DiffersInOut s u) (n : Nat) :
    DiffersInOut (finishDecode n s) (finishDecode n u) := by
  obtain ⟨out, rfl⟩ := h
  exact differsInOut_withOut _ out

theorem cmdDecode_differsInOut (s : State) (out : Memory) : DiffersInOut (cmdDecode s) (cmdDecode (s.withOut out)) := by
  have hs := differsInOut_withOut s out
  obtain ⟨e, n, t, u, hx, hy, ht⟩ := walkRows_agree (cap := outputCap s) (rowCount s.geom) 0 0 hs
  unfold cmdDecode
  rw [withOut_params, withOut_geom, outputCap_withOut, hx, hy]
  split
  · exact hs.raise _
  cases e with
  | ended => exact ht.finishDecode _
  | full => exact ht.finishDecode _
  | overrun => exact ht.finish _ _

/-! ## Every instruction -/

theorem executeCommand_differsInOut (w : BitVec 32) (s : State) (out : Memory) :
    DiffersInOut (executeCommand w s) (executeCommand w (s.withOut out)) := by
  have hs := differsInOut_withOut s out
  unfold executeCommand
  split
  · exact differsInOut_withOut _ out
  · exact ⟨out, cmdJobadd_withOut s out⟩
  · exact ⟨out, cmdRmsvc_withOut s out⟩
  · exact cmdDecode_differsInOut s out
  · exact cmdSlice_differsInOut _ _ s out
  all_goals exact hs.raise _

theorem writeGeometry_differsInOut (g : GeomReg) (v : BitVec 32) (s : State) (out : Memory) :
    DiffersInOut (writeGeometry g v s) (writeGeometry g v (s.withOut out)) := by
  unfold writeGeometry
  rw [withOut_njobs]
  split <;> exact differsInOut_withOut _ out

theorem writeReg_differsInOut (reg : BitVec 7) (data : BitVec 32) (s : State) (out : Memory) :
    DiffersInOut (writeReg reg data s) (writeReg reg data (s.withOut out)) := by
  unfold writeReg
  split
  · exact executeCommand_differsInOut data s out
  · exact writeGeometry_differsInOut _ data s out
  all_goals exact differsInOut_withOut _ out

/-- Settles O49: a register read, a register write, and the five commands, of which SLICE and DECODE store in OUT. -/
theorem outIsNeverRead : Obligations.OutIsNeverRead := by
  intro i s out
  have hcompleted : ∀ {t u : State}, DiffersInOut t u → exec i s = .next (complete t) →
      exec i (s.withOut out) = .next (complete u) →
      ∃ t u, exec i s = .next t ∧ exec i { s with out := out } = .next u ∧ u = { t with out := u.out } :=
    fun h ht hu => ⟨_, _, ht, hu, h.complete.eq_withOut⟩
  cases i with
  | rd reg => exact hcompleted (differsInOut_withOut _ out) rfl rfl
  | wr reg data => exact hcompleted (writeReg_differsInOut reg data s out) rfl rfl
  | reset => exact hcompleted (differsInOut_withOut (cmdReset s) out) rfl rfl
  | jobadd => exact hcompleted ⟨out, cmdJobadd_withOut s out⟩ rfl rfl
  | rmsvc => exact hcompleted ⟨out, cmdRmsvc_withOut s out⟩ rfl rfl
  | decode => exact hcompleted (cmdDecode_differsInOut s out) rfl rfl
  | slice a b => exact hcompleted (cmdSlice_differsInOut a b s out) rfl rfl

end Sys2Proof.Machine
end

section
/-! The memories' canonical form (spec/20_memory.md rules R60 to R62): no instruction writes RAW, and OUT is written by whole
stores. -/

namespace Sys2Proof.Safety

open Sys2Proof.Machine

/-! ## OUT -/

theorem walkKeeps_out_wf : WalkKeeps fun s => s.out.wf = true where
  retire _ h := h
  track _ _ _ _ _ h _ _ := h
  hit _ _ _ _ _ _ _ h _ _ _ _ _ _ _ := Memory.writeBytes_wf _ h
  rest _ _ _ h _ _ _ := h

theorem cmdDecode_out_wf {s : State} (h : s.out.wf = true) : (cmdDecode s).out.wf = true :=
  walkKeeps_out_wf.cmdDecode_keeps (fun _ _ h => h) (fun _ _ _ h => h) (fun _ _ h => h) s h

theorem cmdSlice_out_wf {s : State} (h : s.out.wf = true) (a : BitVec 3) (b : BitVec 16) :
    (cmdSlice a b s).out.wf = true := by
  have hrun := runSlice_out a.toNat s.staging.addr.toNat s
  rcases cmdSlice_cases a b s with ⟨-, he⟩ | ⟨-, -, he⟩ | ⟨-, -, ⟨bytes, t, hs, he⟩ | ⟨t, hs, he⟩ | ⟨t, hs, he⟩⟩ <;>
    rw [he]
  · exact h
  · exact h
  all_goals
    rw [hs] at hrun
    have ht : t.out.wf = true := (congrArg Memory.wf hrun).trans h
  · exact Memory.writeBytes_wf _ ht
  · exact ht
  · exact ht

theorem executeCommand_out_wf {s : State} (h : s.out.wf = true) (w : BitVec 32) : (executeCommand w s).out.wf = true := by
  rcases executeCommand_cases w s with he | he | he | he | ⟨a, b, he⟩ | he <;> rw [he]
  · exact h
  · rwa [cmdJobadd_out]
  · rwa [cmdRmsvc_out]
  · exact cmdDecode_out_wf h
  · exact cmdSlice_out_wf h a b
  · exact h

theorem writeReg_out_wf {s : State} (h : s.out.wf = true) (reg : BitVec 7) (data : BitVec 32) :
    (writeReg reg data s).out.wf = true := by
  rcases writeReg_cases reg data s with he | he | ⟨g, -, he⟩ | ⟨a, he⟩ | he <;> rw [he]
  · exact executeCommand_out_wf h data
  all_goals exact h

theorem exec_out_wf {i : Instr} {s t : State} (h : s.out.wf = true) (he : exec i s = .next t) : t.out.wf = true := by
  cases i <;> cases he
  case rd reg => exact h
  case wr reg data => exact writeReg_out_wf h reg data
  case reset => exact h
  case jobadd => exact (congrArg Memory.wf (cmdJobadd_out s)).trans h
  case rmsvc => exact (congrArg Memory.wf (cmdRmsvc_out s)).trans h
  case decode => exact cmdDecode_out_wf h
  case slice a b => exact cmdSlice_out_wf h a b

/-! ## Both memories -/

/-- Nothing but the host's filling writes RAW or its size. -/
theorem MemoriesOk.of_raw_eq {s t : State} (h : MemoriesOk s) (hraw : t.raw = s.raw) (hbytes : t.rawBytes = s.rawBytes)
    (hout : t.out.wf = true) : MemoriesOk t :=
  ⟨hraw ▸ h.raw, hout, fun a ha => by rw [hraw]; exact h.rawInside a (hbytes ▸ ha)⟩

theorem MemoriesOk.exec {i : Instr} {s t : State} (h : MemoriesOk s) (he : exec i s = .next t) : MemoriesOk t := by
  obtain ⟨u, hu, hraw, hbytes, -⟩ := everyInstructionKeepsHostOwned i s
  obtain rfl : u = t := Host.Outcome.next.inj (hu.symm.trans he)
  exact h.of_raw_eq hraw hbytes (exec_out_wf h.out he)

/-- RAW filled by the host holds the bytes given and nothing past them. -/
theorem MemoriesOk.hostFillRaw {s : State} (h : MemoriesOk s) (bytes : List Byte) : MemoriesOk (hostFillRaw bytes s) where
  raw := Memory.ofBytes_wf
  out := h.out
  rawInside a ha := by
    rw [hostFillRaw_raw, Memory.ofBytes_read, List.getD_eq_default _ _ ha]
    rfl

/-- Settles O51: the five things a step can do, of which an instruction and the host's two stores write a memory. -/
theorem stepKeepsMemories : Obligations.StepKeepsMemories := by
  intro s t h hstep
  obtain ⟨-, ⟨-, rfl⟩ | ⟨w, rest, -, he⟩ | ⟨bytes, rest, -, rfl⟩ | ⟨bytes, rest, -, rfl⟩ | ⟨rest, -, rfl⟩⟩ :=
    step_cases hstep
  · exact h
  · exact h.exec he
  · exact (h.hostFillRaw bytes).of_raw_eq rfl rfl h.out
  · exact h.of_raw_eq rfl rfl (Memory.writeBytes_wf _ h.out)
  · exact h.of_raw_eq rfl rfl h.out

end Sys2Proof.Safety
end

section
/-! A SLICE that matches stores its payload in one record and its threshold in its Job (spec/41_slicer.md rules R165, R170,
spec/20_memory.md rule R62). -/

namespace Sys2Proof.Machine

theorem setThresh_job_same {s : State} {j : Nat} (h : j < s.jobs.length) (v : BitVec 32) :
    (setThresh j v s).job j = { s.job j with thresh := v } :=
  setJob_job_same s j _ h

theorem setThresh_job_other {s : State} {j k : Nat} (h : j ≠ k) (v : BitVec 32) : (setThresh j v s).job k = s.job k :=
  setJob_job_other s j k _ h

theorem cmdSlice_of_matched {s : State} {a : BitVec 3} {b : BitVec 16} {bits : List Bool} {thresh : Nat}
    (ha : a.toNat < s.njobs.toNat) (hb : b.toNat < s.params.outRecords)
    (h : sliceJob (sampleSource s (s.job a.toNat) s.staging.addr.toNat) (s.job a.toNat) = .matched bits thresh) :
    cmdSlice a b s = finish .ok (BitVec.ofNat 32 ((bits.length + 7) / 8))
      (storeOut (recordBase b.toNat + 8) (pack (s.job a.toNat).endian (Config.freePad s.freeDraws) bits)
        (retireSlicer (setThresh a.toNat (BitVec.ofNat 32 thresh) s))) := by
  rw [cmdSlice, if_neg (by omega), if_neg (by omega), runSlice_of_matched h]
  dsimp only
  rw [pack_length]

theorem cmdSlice_of_noMatch {s : State} {a : BitVec 3} {b : BitVec 16}
    (ha : a.toNat < s.njobs.toNat) (hb : b.toNat < s.params.outRecords)
    (h : sliceJob (sampleSource s (s.job a.toNat) s.staging.addr.toNat) (s.job a.toNat) = .noMatch) :
    cmdSlice a b s = finish .noMatch 0 (retireSlicer s) := by
  rw [cmdSlice, if_neg (by omega), if_neg (by omega), runSlice_of_noMatch h]

theorem exec_slice_eq {s t : State} {a : BitVec 3} {b : BitVec 16} (h : cmdSlice a b s = t) :
    exec (.slice a b) s = .next (complete t) := by
  rw [← h]
  rfl

theorem Memory.writeBytes_getD {m : Memory} (h : m.wf = true) (a : Nat) {bs : List Byte} {q : Nat} (hq : q < bs.length) :
    (m.writeBytes a bs).read (a + q) = bs.getD q 0 := by
  rw [writeBytes_read_inside bs h hq, List.getD_eq_getElem _ _ hq]

/-- Settles O31: the one store of the command, read inside and outside, and the one entry of the Job file it writes. -/
theorem sliceMatchStoresPayload : Obligations.SliceMatchStoresPayload := by
  intro s a b bits thresh hjobs hwf ha hb hs len
  have hlen : (bits.length + 7) / 8 = len := by rw [sliceJob_matched_length hs]
  have hbase : recordBase b.toNat + 8 = 64 * b.toNat + 8 := rfl
  have hpack : ∀ pad, (pack (s.job a.toNat).endian pad bits).length = len := fun pad => (pack_length ..).trans hlen
  have ha8 : a.toNat < s.jobs.length := by omega
  have he := exec_slice_eq (cmdSlice_of_matched ha hb hs)
  rw [hlen, hbase] at he
  refine ⟨_, Config.freePad s.freeDraws, he, fun q hq => ?_, fun x hx => ?_, ?_, fun m hm => ?_, ?_, rfl⟩
  · exact Memory.writeBytes_getD hwf _ (by rwa [hpack])
  · exact Memory.writeBytes_read_outside _ hwf (by rwa [hpack])
  · exact setThresh_job_same ha8 _
  · exact setThresh_job_other hm.symm _
  · simpa using hjobs

end Sys2Proof.Machine
end

section
/-! A SLICE whose highest sample lies inside RAW does not overrun (spec/41_slicer.md rule R174, spec/20_memory.md rule
R66). -/

namespace Sys2Proof.Machine

variable {src : SampleSource} {job : Job} {last k tr : Nat}

/-- Sample `last`, and with it every sample in front of it, lies inside RAW. -/
def SampleSource.Covers (src : SampleSource) (last : Nat) : Prop :=
  src.start + last * src.desc.stride + src.desc.unitBytes ≤ src.rawBytes

theorem SampleSource.Covers.mono (h : src.Covers last) (hk : k ≤ last) : src.Covers k := by
  have hstride : k * src.desc.stride ≤ last * src.desc.stride := Nat.mul_le_mul_right _ hk
  unfold SampleSource.Covers at *
  omega

theorem readUnit_isSome {a : Nat} (h : a + src.desc.unitBytes ≤ src.rawBytes) : (readUnit src a).isSome = true := by
  unfold Config.PixelDescriptor.unitBytes at h
  unfold readUnit
  cases hwide : src.desc.wide with
  | true =>
    rw [hwide, if_pos rfl] at h
    rw [if_pos rfl, memReadRaw_eq_some h]
    cases hbe : src.desc.be <;> simp [List.range_succ]
  | false =>
    rw [hwide, if_neg (by decide)] at h
    rw [if_neg (by decide), memReadRaw_eq_some h]
    simp

theorem SampleSource.Covers.sample_isSome (h : src.Covers last) (hk : k ≤ last) : (sample src k).isSome = true := by
  rw [sample, Option.isSome_map]
  exact readUnit_isSome (h.mono hk)

/-- The search reads the samples up to the one behind the last it examines. -/
theorem SampleSource.Covers.search_cases (h : src.Covers last) : ∀ {left k thresh : Nat} {p : Pll}, k + left ≤ last →
    search src job left k thresh p = .exhausted ∨
    ∃ k' tr thresh', k' < k + left ∧ search src job left k thresh p = .found k' tr thresh'
  | 0, _, _, _, _ => .inl rfl
  | left + 1, k, thresh, p, hle => by
    obtain ⟨r0, h0⟩ := Option.isSome_iff_exists.mp (h.sample_isSome (k := k) (by omega))
    obtain ⟨r1, h1⟩ := Option.isSome_iff_exists.mp (h.sample_isSome (k := k + 1) (by omega))
    rw [search, h0, h1]
    dsimp only
    rcases pllTicks job (thresh >>> Config.threshFrac) r0 r1 Config.oversampling 0 p with ⟨p', b⟩
    cases b with
    | true => exact .inr ⟨k, _, _, by omega, rfl⟩
    | false =>
      refine (h.search_cases (k := k + 1) (by omega)).imp_right ?_
      rintro ⟨k', tr, thresh', hk', he⟩
      exact ⟨k', tr, thresh', by omega, he⟩

/-- A bit reads the two samples around its position. -/
theorem SampleSource.Covers.bitAt_isSome (h : src.Covers last) {i : Nat} (hi : k + i / 256 + 1 ≤ last) :
    (bitAt src k tr i).isSome = true := by
  have hshift : i >>> Config.phaseFrac = i / 256 := Nat.shiftRight_eq_div_pow i 8
  obtain ⟨s0, h0⟩ := Option.isSome_iff_exists.mp (h.sample_isSome (k := k + i / 256) (by omega))
  obtain ⟨s1, h1⟩ := Option.isSome_iff_exists.mp (h.sample_isSome hi)
  simp [bitAt, level256, hshift, h0, h1]

theorem SampleSource.Covers.readBits_isSome (h : src.Covers last) {step : Nat} : ∀ {n i : Nat},
    (∀ m < n, k + (i + m * step) / 256 + 1 ≤ last) → (readBits src k tr step n i).isSome = true
  | 0, _, _ => rfl
  | n + 1, i, hi => by
    have hfirst : k + i / 256 + 1 ≤ last := by simpa using hi 0 (Nat.zero_lt_succ n)
    obtain ⟨b, hb⟩ := Option.isSome_iff_exists.mp (h.bitAt_isSome (tr := tr) hfirst)
    rw [readBits, hb]
    dsimp only
    rw [Option.isSome_map]
    refine h.readBits_isSome fun m hm => ?_
    have hnext : i + step + m * step = i + (m + 1) * step := by ring
    rw [hnext]
    exact hi (m + 1) (Nat.succ_lt_succ hm)

/-- After a match at sample `k`, the positions of the framing code and of the payload are one sequence. -/
theorem SampleSource.Covers.confirm_ne_overrun (h : src.Covers last) {thresh : Nat}
    (hbits : ∀ m < job.frcBits.toNat + job.payloadBits.toNat,
      k + (job.phaseShift.toNat + m * job.step.toNat) / 256 + 1 ≤ last) :
    confirm src job k tr thresh ≠ .overrun := by
  obtain ⟨frc, hfrc⟩ := Option.isSome_iff_exists.mp <|
    h.readBits_isSome (tr := tr) (n := job.frcBits.toNat) fun m hm => hbits m (by omega)
  obtain ⟨bits, hpayload⟩ := Option.isSome_iff_exists.mp <|
    h.readBits_isSome (k := k) (tr := tr) (step := job.step.toNat) (n := job.payloadBits.toNat)
      (i := job.phaseShift.toNat + job.frcBits.toNat * job.step.toNat) fun m hm => by
        rw [Nat.add_assoc job.phaseShift.toNat, ← Nat.add_mul]
        exact hbits _ (by omega)
  rw [confirm, hfrc, hpayload]
  dsimp only
  split <;> nofun

/-- The highest sample index of a SLICE (spec/41_slicer.md rule R174). -/
def lastSample (job : Job) : Nat :=
  max job.criSamples.toNat (job.criSamples.toNat +
    (job.phaseShift.toNat + (job.frcBits.toNat + job.payloadBits.toNat - 1) * job.step.toNat) / 256)

theorem bitPosition_le_lastSample {m : Nat} (hm : m < job.frcBits.toNat + job.payloadBits.toNat) :
    job.criSamples.toNat + (job.phaseShift.toNat + m * job.step.toNat) / 256 ≤ lastSample job := by
  refine le_trans ?_ (le_max_right _ _)
  gcongr
  omega

theorem SampleSource.Covers.sliceJob_ne_overrun (h : src.Covers (lastSample job)) : sliceJob src job ≠ .overrun := by
  have hsearch : 0 + job.criSamples.toNat ≤ lastSample job := by
    rw [Nat.zero_add]
    exact le_max_left _ _
  unfold sliceJob
  rcases h.search_cases (job := job) (thresh := job.thresh.toNat) (p := Pll.start) hsearch with
    he | ⟨k, tr, thresh, hk, he⟩ <;> rw [he]
  · nofun
  · refine h.confirm_ne_overrun fun m hm => ?_
    have := bitPosition_le_lastSample hm
    omega

/-- Settles O34: the samples of the command's Job are covered up to its highest index, so its SLICE does not overrun. -/
theorem sliceStaysInsideRaw : Obligations.SliceStaysInsideRaw := by
  intro s a b d ha hb hd job last hlast
  have hdesc : descriptorOrFree job.pf = d := Safety.descriptorOrFree_of_some hd
  have hcovers : (sampleSource s job s.staging.addr.toNat).Covers (lastSample job) := by
    rw [SampleSource.Covers, sampleSource, hdesc]
    exact hlast
  cases hs : sliceJob (sampleSource s job s.staging.addr.toNat) job with
  | matched bits thresh => exact ⟨_, exec_slice_eq (cmdSlice_of_matched ha hb hs), .inl rfl⟩
  | noMatch => exact ⟨_, exec_slice_eq (cmdSlice_of_noMatch ha hb hs), .inr rfl⟩
  | overrun => exact absurd hs hcovers.sliceJob_ne_overrun

end Sys2Proof.Machine
end

section
/-! Where the rows of a frame begin in RAW (spec/20_memory.md rules R70, R71). -/

namespace Sys2Proof.Machine

variable {g : Geometry} {r q : Nat}

/-- The line position of row `r`, counted from the start of RAW in units of `G_BPL`: row after row in a sequential frame, the
fields on the even and the odd positions in an interlaced one. -/
def linePosition (g : Geometry) (r : Nat) : Nat :=
  if interlaced g then (if r < g.count0.toNat then 2 * r else 2 * (r - g.count0.toNat) + 1) else r

theorem linePosition_sequential (h : interlaced g = false) : linePosition g r = r := by
  simp [linePosition, h]

theorem linePosition_field0 (h : interlaced g = true) (hr : r < g.count0.toNat) : linePosition g r = 2 * r := by
  simp [linePosition, h, hr]

theorem linePosition_field1 (h : interlaced g = true) (hr : g.count0.toNat ≤ r) :
    linePosition g r = 2 * (r - g.count0.toNat) + 1 := by
  simp [linePosition, h, Nat.not_lt.mpr hr]

theorem rowBase_eq_linePosition (g : Geometry) (r : Nat) : rowBase g r = linePosition g r * g.bpl.toNat := by
  cases h : interlaced g with
  | false =>
    rw [linePosition_sequential h]
    simp [rowBase, h]
  | true =>
    rcases Nat.lt_or_ge r g.count0.toNat with hr | hr
    · rw [linePosition_field0 h hr, rowBase, if_pos hr, if_pos h]
      ring
    · rw [linePosition_field1 h hr, rowBase, if_neg (by omega), if_pos h, if_pos h]
      ring

theorem linePosition_injective (g : Geometry) : Function.Injective (linePosition g) := by
  intro r q he
  unfold linePosition at he
  split at he
  · split at he <;> split at he <;> omega
  · exact he

/-- Rows at different line positions do not overlap. -/
theorem rowBase_add_le_of_lt (h : linePosition g r < linePosition g q) : rowBase g r + g.bpl.toNat ≤ rowBase g q := by
  rw [rowBase_eq_linePosition, rowBase_eq_linePosition, ← Nat.succ_mul]
  exact Nat.mul_le_mul_right _ h

/-- Settles O35: a row begins at its line position, and no two rows of the frame have the same one. -/
theorem rowsDoNotOverlap : Obligations.RowsDoNotOverlap := by
  refine ⟨fun g r => ⟨fun h => ?_, fun h hr => ?_, fun h hr => ?_⟩, fun g r q hne _ _ => ?_⟩
  · rw [rowBase_eq_linePosition, linePosition_sequential h]
  · rw [rowBase_eq_linePosition, linePosition_field0 h hr]
  · rw [rowBase_eq_linePosition, linePosition_field1 h hr]
    ring
  · rcases Nat.lt_or_gt_of_ne ((linePosition_injective g).ne hne) with h | h
    · exact .inl (rowBase_add_le_of_lt h)
    · exact .inr (rowBase_add_le_of_lt h)

end Sys2Proof.Machine
end

section
/-! How many records DECODE writes, and how far into OUT (spec/43_scheduler.md rule R246, spec/20_memory.md rule R62). -/

namespace Sys2Proof.Machine

variable {cap r : Nat}

/-- The bytes of one record fit the record (rule R235). -/
theorem recordBytes_length_le {g : Geometry} {job : Job} {r : Nat} {bytes : List Byte} (h : bytes.length ≤ 56) :
    (recordBytes g job r bytes).length ≤ 64 := by
  simp only [recordBytes, le32, List.length_append, List.length_cons, List.length_nil]
  omega

/-- With `n` records written since OUT was `out`: no more than fit, and no byte of OUT changed at or past their end. The rest
is what the next record needs: the canonical form of OUT, and payloads that fit a record. -/
structure RecordsWritten (cap : Nat) (out : Memory) (n : Nat) (s : State) : Prop where
  within : n ≤ cap
  beyond : ∀ x, 64 * n ≤ x → s.out.read x = out.read x
  wf : s.out.wf = true
  payload : ∀ j < s.njobs.toNat, (s.job j).payloadBits.toNat ≤ 448

namespace RecordsWritten

variable {out : Memory} {n : Nat} {s : State}

theorem start (hwf : s.out.wf = true) (hpayload : ∀ j < s.njobs.toNat, (s.job j).payloadBits.toNat ≤ 448) :
    RecordsWritten cap s.out 0 s :=
  ⟨Nat.zero_le _, fun _ _ => rfl, hwf, hpayload⟩

theorem retire (h : RecordsWritten cap out n s) : RecordsWritten cap out n (retireSlicer s) :=
  ⟨h.within, h.beyond, h.wf, h.payload⟩

theorem track (h : RecordsWritten cap out n s) (j : Nat) (v : BitVec 32) :
    RecordsWritten cap out n (retireSlicer (setThresh j v s)) :=
  ⟨h.within, h.beyond, h.wf, fun k hk => by
    rw [retireSlicer_job, setThresh_job_payloadBits]
    exact h.payload k hk⟩

theorem rest (h : RecordsWritten cap out n s) (r : Nat) (row : Row) : RecordsWritten cap out n (setRow r row s) :=
  ⟨h.within, h.beyond, h.wf, h.payload⟩

/-- A hit stores its record behind the last one. -/
theorem hit (h : RecordsWritten cap out n s) (hn : n ≠ cap) (r i : Nat) (v : Slot) (job : Job) {bytes : List Byte}
    (hbytes : bytes.length ≤ 56) : RecordsWritten cap out (n + 1) (recordHit r i n v job bytes s) where
  within := by have := h.within; omega
  beyond x hx := by
    have hlen := recordBytes_length_le (g := s.geom) (job := job) (r := r) hbytes
    have hbase : recordBase n = 64 * n := rfl
    rw [recordHit_out, Memory.writeBytes_read_outside _ h.wf (by omega)]
    exact h.beyond x (by omega)
  wf := Memory.writeBytes_wf _ h.wf
  payload := h.payload

/-- The walk of a row writes at most one record. -/
theorem walkSlots : ∀ {left i : Nat} {s : State}, RecordsWritten cap out n s → ∀ {e n' t},
    walkSlots cap r left i n s = (e, n', t) → n' ≤ n + 1 ∧ RecordsWritten cap out n' t
  | 0, _, _, h, _, _, _, he => by
    cases he
    exact ⟨Nat.le_succ n, h⟩
  | left + 1, i, s, h, e, n', t, he => by
    cases hv : isJobSlot (slotAt (s.row r) i) with
    | false =>
      rw [walkSlots_rest hv] at he
      cases he
      exact ⟨Nat.le_succ n, h.rest r _⟩
    | true =>
      by_cases hd : s.njobs.toNat < (slotAt (s.row r) i).toNat
      · rw [walkSlots_dangling hv hd] at he
        exact h.walkSlots he
      have hd := Nat.le_of_not_lt hd
      by_cases hn : n = cap
      · subst hn
        rw [walkSlots_full hv hd] at he
        cases he
        exact ⟨Nat.le_succ n, h⟩
      rw [walkSlots_tested hv hd hn] at he
      have hj : slotJob (slotAt (s.row r) i) < s.njobs.toNat := by
        have := isJobSlot_pos hv
        unfold slotJob
        omega
      rcases runSlice_cases (slotJob (slotAt (s.row r) i)) (jobBase s r (slotJob (slotAt (s.row r) i))) s with
        ⟨bits, thresh, hs, hrun⟩ | ⟨-, hrun⟩ | ⟨-, hrun⟩ <;> rw [hrun] at he
      · have hbytes := h.payload _ hj
        rw [← sliceJob_matched_length hs] at hbytes
        dsimp only at he
        split at he
        · cases he
          refine ⟨le_rfl, (h.track _ _).hit hn r i _ _ ?_⟩
          rw [pack_length]
          omega
        · exact (h.track _ _).walkSlots he
      · exact h.retire.walkSlots he
      · cases he
        exact ⟨Nat.le_succ n, h.retire⟩

theorem walkRows : ∀ {left r n : Nat} {s : State}, RecordsWritten cap out n s → ∀ {e n' t},
    walkRows cap left r n s = (e, n', t) → n' ≤ n + left ∧ RecordsWritten cap out n' t
  | 0, _, _, _, h, _, _, _, he => by
    cases he
    exact ⟨le_rfl, h⟩
  | left + 1, r, n, s, h, e, n', t, he => by
    rw [Machine.walkRows] at he
    rcases hw : Machine.walkSlots cap r Config.maxWays 0 n s with ⟨e1, n1, t1⟩
    obtain ⟨hn1, h1⟩ := h.walkSlots hw
    rw [hw] at he
    cases e1 with
    | ended =>
      obtain ⟨hn, ht⟩ := h1.walkRows he
      exact ⟨by omega, ht⟩
    | full =>
      cases he
      exact ⟨by omega, h1⟩
    | overrun =>
      cases he
      exact ⟨by omega, h1⟩

end RecordsWritten

/-- Settles O43: the records counted through the walk, whose number is what `R_VALUE` holds at either ending. -/
theorem decodeRespectsCapacity : Obligations.DecodeRespectsCapacity := by
  intro s hwf hpayload hframe
  rcases cmdDecode_cases s with ⟨hlt, -⟩ | ⟨-, e, n, t, hw, hend⟩
  · exact absurd hframe (Nat.not_le_of_lt hlt)
  obtain ⟨hrows, hcap, hbeyond, -, -⟩ := (RecordsWritten.start hwf hpayload).walkRows hw
  have hle : n ≤ min s.staging.outCap.toNat s.params.outRecords := hcap
  have hn : (BitVec.ofNat 32 n).toNat = n := by
    have := s.staging.outCap.isLt
    rw [BitVec.toNat_ofNat, Nat.mod_eq_of_lt (by omega)]
  have hdone : (cmdDecode s).value.toNat = n ∧ (cmdDecode s).out = t.out := by
    rcases hend with ⟨-, he⟩ | ⟨-, he⟩ <;> rw [he] <;> exact ⟨hn, rfl⟩
  obtain ⟨hvalue, hout⟩ := hdone
  refine ⟨complete (cmdDecode s), rfl, ?_, ?_, fun x hx => ?_⟩
  · rwa [complete_value, hvalue]
  · rw [complete_value, hvalue]
    rwa [Nat.zero_add] at hrows
  · rw [complete_value, hvalue] at hx
    rw [complete_out, hout]
    exact hbeyond x hx

end Sys2Proof.Machine
end

section
/-! The transaction words (spec/30_encoding.md rules R90 to R99): the fields of a word, the one word of each command, the
illegal command words, and decoding against encoding. -/

namespace Sys2Proof.Machine

open Sys2Proof.Safety

/-! ## Fields (rules R90, R93) -/

theorem commandOp_toNat (w : BitVec 32) : (commandOp w).toNat = w.toNat % 256 := by
  simp [commandOp]

theorem commandA_toNat (w : BitVec 32) : (commandA w).toNat = w.toNat / 256 % 256 := by
  simp [commandA, Nat.shiftRight_eq_div_pow]

theorem commandB_toNat (w : BitVec 32) : (commandB w).toNat = w.toNat / 65536 := by
  have := w.isLt
  simp only [commandB, BitVec.extractLsb'_toNat, Nat.shiftRight_eq_div_pow]
  omega

theorem commandWord_toNat (op a : BitVec 8) (b : BitVec 16) :
    (commandWord op a b).toNat = 65536 * b.toNat + 256 * a.toNat + op.toNat := by
  simp only [commandWord, toNat_append_eq_add]
  omega

@[simp] theorem commandOp_commandWord (op a : BitVec 8) (b : BitVec 16) : commandOp (commandWord op a b) = op := by
  apply BitVec.eq_of_toNat_eq
  rw [commandOp_toNat, commandWord_toNat]
  omega

@[simp] theorem commandA_commandWord (op a : BitVec 8) (b : BitVec 16) : commandA (commandWord op a b) = a := by
  apply BitVec.eq_of_toNat_eq
  rw [commandA_toNat, commandWord_toNat]
  omega

@[simp] theorem commandB_commandWord (op a : BitVec 8) (b : BitVec 16) : commandB (commandWord op a b) = b := by
  apply BitVec.eq_of_toNat_eq
  rw [commandB_toNat, commandWord_toNat]
  omega

/-- A transaction word is its three fields. -/
theorem transaction_eq (t : Transaction) :
    transactionWord (BitVec.ofBool (wrField t)) (regField t) (dataField t) = t := by
  refine BitVec.eq_of_getLsbD_eq fun k hk => ?_
  simp only [transactionWord, wrField, regField, dataField, BitVec.getLsbD_append, BitVec.getLsbD_extractLsb',
    BitVec.getLsbD_ofBool]
  by_cases h32 : k < 32
  · simp [h32]
  · by_cases h39 : k - 32 < 7
    · simp [h32, h39, show 32 + (k - 32) = k by omega]
    · simp [show k = 39 by omega]

theorem transactionWord_and (wr wr' : BitVec 1) (reg reg' : BitVec 7) (data data' : BitVec 32) :
    transactionWord wr reg data &&& transactionWord wr' reg' data' =
      transactionWord (wr &&& wr') (reg &&& reg') (data &&& data') :=
  BitVec.and_append.trans (congrArg (· ++ (data &&& data')) BitVec.and_append)

/-- The upper 8 bits of a read: its `DATA` is ignored (rule R91). -/
theorem transactionWord_rd_and (reg : BitVec 7) (data : BitVec 32) :
    transactionWord 0 reg data &&& 0xFF00000000 = transactionWord 0 reg 0 := by
  have hmask : (0xFF00000000 : Transaction) = transactionWord 1 (BitVec.allOnes 7) 0 := by decide
  have hdata : data &&& 0 = 0 := BitVec.and_zero
  rw [hmask, transactionWord_and, BitVec.and_allOnes, hdata]
  rfl

/-! ## Command words (rules R98, R99) -/

/-- The command word of a command; a register read or write has none. -/
def wordOfCommand : Instr → Option (BitVec 32)
  | .reset => some (commandWord 0x01 0 0)
  | .jobadd => some (commandWord 0x02 0 0)
  | .rmsvc => some (commandWord 0x03 0 0)
  | .decode => some (commandWord 0x04 0 0)
  | .slice a b => some (commandWord 0x05 (a.setWidth 8) b)
  | .rd _ => none
  | .wr _ _ => none

theorem commandOf_of_wordOfCommand {i : Instr} {w : BitVec 32} (h : wordOfCommand i = some w) : commandOf w = some i := by
  cases i <;> cases h
  case slice a b =>
    have ha : (a.setWidth 8).toNat = a.toNat := by
      rw [BitVec.toNat_setWidth]
      omega
    have hfield : (a.setWidth 8).extractLsb' 0 3 = a := by
      apply BitVec.eq_of_toNat_eq
      rw [BitVec.extractLsb'_toNat, ha]
      omega
    have hle : (a.setWidth 8).toNat ≤ 7 := by omega
    simp only [commandOf, commandOp_commandWord, commandA_commandWord, commandB_commandWord, hfield, if_pos hle, if_true]
  all_goals rfl

theorem wordOfCommand_of_commandOf {i : Instr} {w : BitVec 32} (h : commandOf w = some i) : wordOfCommand i = some w := by
  rw [← command_eq w]
  unfold commandOf at h
  split_ifs at h with hslice ha hzero hreset hjobadd hrmsvc hdecode <;> cases h
  · have hfield : ((commandA w).extractLsb' 0 3).setWidth 8 = commandA w := by
      apply BitVec.eq_of_toNat_eq
      rw [BitVec.toNat_setWidth, BitVec.extractLsb'_toNat]
      omega
    rw [wordOfCommand, hfield, hslice]
  · rw [hreset, hzero.1, hzero.2, wordOfCommand]
  · rw [hjobadd, hzero.1, hzero.2, wordOfCommand]
  · rw [hrmsvc, hzero.1, hzero.2, wordOfCommand]
  · rw [hdecode, hzero.1, hzero.2, wordOfCommand]

/-- The commands and their words correspond one to one. -/
theorem commandOf_eq_some_iff {i : Instr} {w : BitVec 32} : commandOf w = some i ↔ wordOfCommand i = some w :=
  ⟨wordOfCommand_of_commandOf, commandOf_of_wordOfCommand⟩

/-- Rule R99: the words that encode no command are the illegal ones. -/
theorem commandOf_eq_none_iff {w : BitVec 32} : commandOf w = none ↔ IllegalWord w := by
  have hw := w.isLt
  simp only [commandOf, ← BitVec.toNat_inj, commandOp_toNat, commandA_toNat, commandB_toNat, IllegalWord,
    BitVec.ofNat_eq_ofNat, BitVec.toNat_ofNat, Nat.reducePow, Nat.reduceMod, Nat.zero_mod]
  split_ifs <;> simp only [true_iff, false_iff] <;> omega

theorem illegalCommand_iff {w : BitVec 32} : illegalCommand w = true ↔ IllegalWord w := by
  simp only [illegalCommand, IllegalWord, Bool.or_eq_true, Bool.and_eq_true, beq_iff_eq, bne_iff_ne, decide_eq_true_eq]
  omega

/-! ## Decoding against encoding -/

theorem encode_of_wordOfCommand {i : Instr} {w : BitVec 32} (h : wordOfCommand i = some w) :
    encode i = transactionWord 1 cmdNumber w := by
  cases i <;> cases h <;> rfl

theorem wellFormed_of_wordOfCommand {i : Instr} {w : BitVec 32} (h : wordOfCommand i = some w) :
    i.wellFormed = true := by
  cases i <;> cases h <;> rfl

theorem decode_wr_word (reg : BitVec 7) (data : BitVec 32) :
    decode (transactionWord 1 reg data) =
      if reg = cmdNumber then (commandOf data).getD (.wr reg data) else .wr reg data := by
  have hwr : (1 : BitVec 1).getLsbD 0 = true := rfl
  simp only [decode, wrField_transactionWord, regField_transactionWord, dataField_transactionWord, hwr, if_true]

theorem decode_rd_word (reg : BitVec 7) (data : BitVec 32) : decode (transactionWord 0 reg data) = .rd reg := by
  simp [decode, wrField_transactionWord, regField_transactionWord]

theorem decode_cmd_word (w : BitVec 32) : decode (transactionWord 1 cmdNumber w) = (commandOf w).getD (.wr cmdNumber w) := by
  rw [decode_wr_word, if_pos rfl]

theorem decode_encode_of_wordOfCommand {i : Instr} {w : BitVec 32} (h : wordOfCommand i = some w) :
    decode (encode i) = i := by
  rw [encode_of_wordOfCommand h, decode_cmd_word, commandOf_eq_some_iff.mpr h, Option.getD_some]

theorem decode_encode {i : Instr} (h : i.wellFormed = true) : decode (encode i) = i := by
  cases i with
  | rd reg => exact decode_encode_rd reg
  | wr reg data =>
    by_cases hreg : reg = cmdNumber
    · subst hreg
      have hillegal : illegalCommand data = true := by simpa [Instr.wellFormed] using h
      have hnone : commandOf data = none := commandOf_eq_none_iff.mpr (illegalCommand_iff.mp hillegal)
      rw [encode, decode_cmd_word, hnone, Option.getD_none]
    · exact decode_encode_wr hreg data
  | reset => exact decode_encode_of_wordOfCommand rfl
  | jobadd => exact decode_encode_of_wordOfCommand rfl
  | rmsvc => exact decode_encode_of_wordOfCommand rfl
  | decode => exact decode_encode_of_wordOfCommand rfl
  | slice a b => exact decode_encode_of_wordOfCommand rfl

/-- A 40-bit number is never rejected. -/
theorem decodeTableWord_toNat (t : Transaction) : decodeTableWord 40 t.toNat = some (decode t) := by
  simp [decodeTableWord, decodeNumber, Nat.mod_eq_of_lt t.isLt, t.isLt]

/-- Settles O2: each field is read back from the word, and each command from its one command word. -/
theorem decodeOfEncode : Obligations.DecodeOfEncode :=
  fun i h => ⟨decode_encode h, by rw [decodeTableWord_toNat, decode_encode h]⟩

/-- A write to `CMD` is a command with that command word, or an illegal word that stays a write. -/
theorem wellFormed_and_encode_decode_cmd_word (w : BitVec 32) :
    (decode (transactionWord 1 cmdNumber w)).wellFormed = true ∧
    encode (decode (transactionWord 1 cmdNumber w)) = transactionWord 1 cmdNumber w := by
  rw [decode_cmd_word]
  cases hw : commandOf w with
  | none =>
    have hillegal : illegalCommand w = true := illegalCommand_iff.mpr (commandOf_eq_none_iff.mp hw)
    exact ⟨by simp [Instr.wellFormed, hillegal], rfl⟩
  | some i =>
    have hword : wordOfCommand i = some w := commandOf_eq_some_iff.mp hw
    exact ⟨wellFormed_of_wordOfCommand hword, encode_of_wordOfCommand hword⟩

/-- Settles O3: the word is its three fields, of which a read keeps `REG`, a register write all, and a command its word. -/
theorem encodeOfDecode : Obligations.EncodeOfDecode := by
  intro t
  have ht := transaction_eq t
  change _ ∧ encode (decode t) = if wrField t = true then t else _
  cases hwr : wrField t with
  | false =>
    rw [hwr] at ht
    rw [← ht, BitVec.ofBool_false, decode_rd_word]
    exact ⟨rfl, (transactionWord_rd_and _ _).symm⟩
  | true =>
    rw [hwr] at ht
    rw [if_pos rfl, ← ht, BitVec.ofBool_true]
    by_cases hreg : regField t = cmdNumber
    · rw [hreg]
      exact wellFormed_and_encode_decode_cmd_word _
    · rw [decode_wr_word, if_neg hreg]
      exact ⟨by rw [Instr.wellFormed, bne_iff_ne.mpr hreg, Bool.true_or], rfl⟩

/-- Settles O1: each word is closed, and the decoder evaluates it. -/
theorem commandWordsDecode : Obligations.CommandWordsDecode := by
  unfold Obligations.CommandWordsDecode
  decide

/-- Settles O4: an illegal word encodes no command, and the write to `CMD` raises the code alone. -/
theorem illegalCommandWord : Obligations.IllegalCommandWord := by
  intro w s h
  have hraise : executeCommand w s = raise .badCmd s := by
    simp only [executeCommand, commandOf_eq_none_iff.mpr h]
  rw [exec, execWr, writeReg_of_cmd rfl, hraise]
  rfl

end Sys2Proof.Machine
end

section
/-! The pixel-format table against the spec's (spec/40_sample_demux.md rules R125 to R132). -/

namespace Sys2Proof.Machine

open Sys2Proof.Safety

/-- An entry of the model's table as a line of the spec's. -/
def descriptorLine (e : BitVec 8 × Config.PixelDescriptor) : Nat × Nat × Nat × Nat × Nat × Nat × Nat :=
  (e.1.toNat, e.2.stride, e.2.skip, e.2.unitBytes, e.2.be.toNat, e.2.shift, e.2.width)

theorem descriptorTable_eq : descriptorTable = pixelTable.map descriptorLine := rfl

theorem knownFormats_eq : knownFormats = pixelTable.map fun e => e.1.toNat := by decide

/-- No code stands twice in the table, so the lookup finds every entry. -/
theorem descriptorOf_eq_some_iff {code : BitVec 8} {d : Config.PixelDescriptor} :
    descriptorOf code = some d ↔ (code, d) ∈ pixelTable := by
  have hfound : ∀ e ∈ pixelTable, descriptorOf e.1 = some e.2 := by decide
  refine ⟨fun h => ?_, hfound (code, d)⟩
  obtain ⟨front, back, he, -⟩ := List.lookup_eq_some_iff.mp h
  simp [he]

/-- Settles O59: the spec's table is the model's, line by line, and the lookup finds exactly its entries. -/
theorem descriptorsOfCodes : Obligations.DescriptorsOfCodes := by
  intro code stride skip unit be shift width
  rw [descriptorTable_eq, List.mem_map]
  constructor
  · rintro ⟨⟨c, d⟩, hmem, hline⟩
    simp only [descriptorLine, Prod.mk.injEq, BitVec.toNat_inj] at hline
    obtain ⟨rfl, hfields⟩ := hline
    exact ⟨d, descriptorOf_eq_some_iff.mpr hmem, hfields⟩
  · rintro ⟨d, hd, rfl, rfl, rfl, rfl, rfl, rfl⟩
    exact ⟨(code, d), descriptorOf_eq_some_iff.mp hd, rfl⟩

theorem descriptorOf_isSome_iff {code : BitVec 8} : (descriptorOf code).isSome = true ↔ code.toNat ∈ knownFormats := by
  simp only [Option.isSome_iff_exists, descriptorOf_eq_some_iff, knownFormats_eq, List.mem_map, BitVec.toNat_inj,
    Prod.exists]
  exact ⟨fun ⟨d, h⟩ => ⟨code, d, h, rfl⟩, fun ⟨_, d, h, he⟩ => ⟨d, he ▸ h⟩⟩

end Sys2Proof.Machine
end

section
/-! JOBADD's commit (spec/42_config.md rules R201 to R207): its conditions in arithmetic, the Job it selects, the fields it
writes. -/

namespace Sys2Proof.Machine

open Sys2Proof.Safety

/-! ## Packed operands (rules R96, R97) -/

theorem stagedCriBits_toNat (s : State) : (stagedCriBits s.staging).toNat = criBits s := by
  simp [stagedCriBits, criBits]

theorem stagedFrcBits_toNat (s : State) : (stagedFrcBits s.staging).toNat = frcBits s := by
  simp [stagedFrcBits, frcBits, Nat.shiftRight_eq_div_pow]

theorem stagedModulation_toNat (a : Staging) : (stagedModulation a).toNat = a.bits.toNat / 65536 % 4 := by
  simp [stagedModulation, Nat.shiftRight_eq_div_pow]

theorem rangeFirst_eq (rows : BitVec 32) : rangeFirst rows = rows.toNat % 65536 := by
  simp [rangeFirst]

theorem rangeCount_eq (rows : BitVec 32) : rangeCount rows = rows.toNat / 65536 := by
  have := rows.isLt
  simp only [rangeCount, BitVec.extractLsb'_toNat, Nat.shiftRight_eq_div_pow]
  omega

theorem mem_rangeRows_iff {rows : BitVec 32} {r : Nat} : r ∈ rangeRows rows ↔ inRange rows r := by
  rw [rangeRows, List.mem_range'_1, rangeFirst_eq, rangeCount_eq, inRange]

theorem mem_stagedRows_iff {s : State} {r : Nat} : r ∈ stagedRows s.staging ↔ named s r := by
  rw [stagedRows, List.mem_append, mem_rangeRows_iff, mem_rangeRows_iff, named]

/-! ## The sync patterns (rule R105) -/

theorem and_lowMask_toNat (x : BitVec 32) {n : Nat} (h : n ≤ 32) : (x &&& lowMask n).toNat = x.toNat % 2 ^ n := by
  have hpow : 2 ^ n ≤ 2 ^ 32 := Nat.pow_le_pow_right (by omega) h
  have hmask : (lowMask n).toNat = 2 ^ n - 1 := toNat_ofNat_of_lt (by omega)
  rw [BitVec.toNat_and, hmask, Nat.and_two_pow_sub_one_eq_mod]

theorem assembledCri_toNat (a : Staging) :
    (assembledCri a).toNat = a.criFrc.toNat / 2 ^ (stagedFrcBits a).toNat &&& (assembledCriMask a).toNat := by
  rw [assembledCri, BitVec.toNat_and, BitVec.toNat_ushiftRight, Nat.shiftRight_eq_div_pow]

/-! ## Admission (rules R201 to R203) -/

theorem rateAccepted_iff {x : BitVec 32} : rateAccepted x = true ↔ 1 ≤ x.toNat ∧ x.toNat ≤ 2 ^ 28 := by
  rw [rateAccepted, Bool.and_eq_true, decide_eq_true_eq, decide_eq_true_eq, Config.maxRate]

theorem rangeAccepted_iff {rows : BitVec 32} {n : Nat} :
    rangeAccepted rows n = true ↔ rows.toNat / 65536 = 0 ∨ rows.toNat % 65536 + rows.toNat / 65536 ≤ n := by
  rw [rangeAccepted, Bool.or_eq_true, beq_iff_eq, decide_eq_true_eq, rangeFirst_eq, rangeCount_eq]

/-- The eight conditions of rule R201. -/
theorem jobaddAccepted_iff {s : State} : jobaddAccepted s.geom s.staging = true ↔ JobaddConditions s := by
  simp only [jobaddAccepted, Bool.and_eq_true, decide_eq_true_eq, beq_iff_eq, bne_iff_ne, rateAccepted_iff,
    rangeAccepted_iff, descriptorOf_isSome_iff, stagedCriBits_toNat, stagedFrcBits_toNat, and_assoc]
  constructor
  · rintro ⟨hformat, hmbz, hcri, hfrc, hsync, hrmin, hrmax, hcmin, hcmax, hbmin, hbmax, hid, hpmin, hpmax, hbpl, hoffset,
      hrange0, hrange1⟩
    exact ⟨hformat, hmbz, ⟨hcri, hfrc, hsync⟩, ⟨⟨hrmin, hrmax⟩, ⟨hcmin, hcmax⟩, hbmin, hbmax⟩, hid, ⟨hpmin, hpmax⟩,
      ⟨hbpl, hoffset⟩, hrange0, hrange1⟩
  · rintro ⟨hformat, hmbz, ⟨hcri, hfrc, hsync⟩, ⟨⟨hrmin, hrmax⟩, ⟨hcmin, hcmax⟩, hbmin, hbmax⟩, hid, ⟨hpmin, hpmax⟩,
      ⟨hbpl, hoffset⟩, hrange0, hrange1⟩
    exact ⟨hformat, hmbz, hcri, hfrc, hsync, hrmin, hrmax, hcmin, hcmax, hbmin, hbmax, hid, hpmin, hpmax, hbpl, hoffset,
      hrange0, hrange1⟩

theorem shares_iff {s : State} {i : Nat} : Shares s i ↔ i < s.njobs.toNat ∧ shareable s.staging (s.job i) = true := by
  rw [Shares, shareable, beq_iff_eq]

theorem sharedJob_eq_some_iff {s : State} {j : Nat} : sharedJob s = some j ↔ Shares s j ∧ ∀ i < j, ¬ Shares s i := by
  simp only [sharedJob, List.find?_range_eq_some, List.mem_range, shares_iff, not_and, Bool.not_eq_true',
    Bool.not_eq_true]
  constructor
  · rintro ⟨hshare, hj, hleast⟩
    exact ⟨⟨hj, hshare⟩, fun i hi _ => hleast i hi⟩
  · rintro ⟨⟨hj, hshare⟩, hleast⟩
    exact ⟨hshare, hj, fun i hi => hleast i hi (hi.trans hj)⟩

theorem sharedJob_eq_none_iff {s : State} : sharedJob s = none ↔ ∀ i, ¬ Shares s i := by
  simp only [sharedJob, List.find?_range_eq_none, shares_iff, not_and, Bool.not_eq_true', Bool.not_eq_true]

/-- Rule R202: the least shareable Job, or a new one. -/
theorem selected_iff {s : State} {j : Nat} :
    Selected s j ↔ sharedJob s = some j ∨ (sharedJob s = none ∧ s.njobs ≠ 8 ∧ j = s.njobs.toNat) := by
  have h8 : s.njobs.toNat ≠ 8 ↔ s.njobs ≠ 8 := BitVec.toNat_ne_iff_ne (n := 4) (y := 8)
  rw [Selected, sharedJob_eq_some_iff, sharedJob_eq_none_iff, h8]

/-- The selected Job is an existing one, or a new one in a file that is not full. -/
theorem selected_index {s : State} {j : Nat} (h : Selected s j) :
    j < s.njobs.toNat ∨ (s.njobs ≠ 8 ∧ j = s.njobs.toNat) := by
  rcases selected_iff.mp h with hs | ⟨-, hnew⟩
  · exact .inl (sharedJob_lt hs)
  · exact .inr hnew

/-- The room of a row, counted slot by slot. -/
theorem freeSlots_eq_roomOn {s : State} (h : ShapeOk s) (j r : Nat) : freeSlots j (s.row r) = roomOn s j r := by
  have hrow : s.row r = (List.range 8).map (slotAt (s.row r)) := by
    refine List.ext_getElem (by simp [h.row_length]) fun i hi _ => ?_
    rw [List.getElem_map, List.getElem_range, slotAt_eq_getElem hi]
  calc freeSlots j (s.row r) = freeSlots j ((List.range 8).map (slotAt (s.row r))) := congrArg _ hrow
    _ = roomOn s j r := by
      rw [freeSlots, List.countP_map, List.countP_eq_length_filter]
      rfl

theorem rowsHaveRoom_iff {s : State} (h : ShapeOk s) {j : Nat} :
    rowsHaveRoom j s = true ↔ ∀ r, named s r → 2 ≤ roomOn s j r := by
  simp only [rowsHaveRoom, List.all_eq_true, decide_eq_true_eq, mem_stagedRows_iff, freeSlots_eq_roomOn h]
  rfl

/-- A JOBADD that passes every test commits for the Job it selects. -/
theorem cmdJobadd_of_selected {s : State} {j : Nat} (hshape : ShapeOk s) (hcond : JobaddConditions s)
    (hframe : frameRows s ≤ s.params.maxLines) (hsel : Selected s j) (hroom : ∀ r, named s r → 2 ≤ roomOn s j r) :
    cmdJobadd s = commitJob j (reserveRows j (stagedRows s.staging) s) := by
  have hframe' : ¬ s.params.maxLines < rowCount s.geom := Nat.not_lt.mpr hframe
  have hat : jobaddAt j s = commitJob j (reserveRows j (stagedRows s.staging) s) :=
    if_pos ((rowsHaveRoom_iff hshape).mpr hroom)
  unfold cmdJobadd
  rw [if_neg (by simp [jobaddAccepted_iff.mpr hcond]), if_neg hframe', ← hat]
  rcases selected_iff.mp hsel with hs | ⟨hs, h8, rfl⟩
  · rw [hs]
  · rw [hs]
    exact if_neg h8

/-! ## The commit (rules R206, R207) -/

/-- Everything the commit writes. -/
theorem commitJob_eq (j : Nat) (s : State) :
    commitJob j s = { s with
      jobs := s.jobs.set j (configuredJob s.geom s.staging (priorId s j))
      njobs := if j = s.njobs.toNat then s.njobs + 1 else s.njobs
      services := s.services ||| s.staging.id
      result := 0, value := BitVec.ofNat 32 j } := by
  simp only [commitJob, finish, setJob, priorId, beq_iff_eq, ResultCode.number]

theorem priorId_or (s : State) (j : Nat) (x : BitVec 32) :
    priorId s j ||| x = if j = s.njobs.toNat then x else (s.job j).id ||| x := by
  rw [priorId]
  split <;> simp_all

/-- Settles O16: the commit writes one entry of the Job file, configured for the accepted inputs, after PAT alone. -/
theorem jobaddCommitsJob : Obligations.JobaddCommitsJob := by
  intro s j d hshape hcond hframe hsel hroom hd
  obtain ⟨hcri, hfrc, -⟩ := hcond.syncBits
  rw [← stagedCriBits_toNat] at hcri
  rw [← stagedFrcBits_toNat] at hfrc
  have hcommit := cmdJobadd_of_selected hshape hcond hframe hsel hroom
  obtain ⟨pat, -, hpat⟩ := reserveRows_eq j (stagedRows s.staging) s
  rw [hpat] at hcommit
  obtain ⟨d', hinputs⟩ := acceptedInputs_of_jobaddAccepted (jobaddAccepted_iff.mpr hcond)
  obtain rfl : d' = d := Option.some_inj.mp (hinputs.format.symm.trans hd)
  have hj : j < s.jobs.length := hshape.jobs.symm ▸ hshape.index_lt (selected_index hsel)
  have hjob : (complete (cmdJobadd s)).job j = configuredJob s.geom s.staging (priorId s j) := by
    rw [complete_job, hcommit]
    exact commitJob_job_same hj
  refine ⟨complete (cmdJobadd s), rfl, ?_⟩
  rw [hjob]
  refine ⟨?id, rfl, rfl, rfl, ?payload, ?criBits, ?frcBits, ?modulation, ?criMask, ?cri, ?frc, rfl, ?configured, ?others,
    ?length, ?frame⟩
  case id => exact priorId_or s j _
  case payload => exact toNat_ofNat_of_lt (by have := hcond.payload.2; omega)
  case criBits => exact stagedCriBits_toNat s
  case frcBits => exact stagedFrcBits_toNat s
  case modulation => exact stagedModulation_toNat s.staging
  case criMask => rw [← stagedCriBits_toNat s]; exact and_lowMask_toNat _ hcri
  case cri => rw [← stagedFrcBits_toNat s]; exact assembledCri_toNat s.staging
  case frc => rw [← stagedFrcBits_toNat s]; exact and_lowMask_toNat _ hfrc
  case configured => exact jobConfigured_configuredJob hinputs _
  case others =>
    intro m hm
    rw [complete_job, hcommit]
    exact commitJob_job_other hm.symm
  case length =>
    rw [complete_jobs, hcommit, commitJob_jobs, List.length_set]
    exact hshape.jobs
  case frame =>
    rw [hcommit, commitJob_eq]
    rfl

end Sys2Proof.Machine
end

section
/-! Samples of RAW (spec/40_sample_demux.md rules R122 to R124, R133): the channel's bits, the unit at an address, the
interpolations. -/

namespace Sys2Proof.Machine

open Sys2Proof.Safety

/-! ## The channel (rule R123) -/

/-- No channel of the table is wider than a sample. -/
theorem descriptorOf_width_le {code : BitVec 8} {d : Config.PixelDescriptor} (h : descriptorOf code = some d) :
    d.width ≤ 8 := by
  have hall : ∀ e ∈ pixelTable, e.2.width ≤ 8 := by decide
  exact hall (code, d) (descriptorOf_eq_some_iff.mp h)

theorem channel_eq (d : Config.PixelDescriptor) (u : Nat) :
    channel d u = u / 2 ^ d.shift % 2 ^ d.width * 2 ^ (8 - d.width) := by
  rw [channel, Nat.shiftLeft_eq, Nat.shiftRight_eq_div_pow]

theorem channel_le {d : Config.PixelDescriptor} (h : d.width ≤ 8) (u : Nat) : channel d u ≤ 255 := by
  refine Nat.le_of_lt_succ ?_
  calc channel d u = u / 2 ^ d.shift % 2 ^ d.width * 2 ^ (8 - d.width) := channel_eq d u
    _ < 2 ^ d.width * 2 ^ (8 - d.width) := by
      gcongr
      exact Nat.mod_lt _ (Nat.two_pow_pos _)
    _ = 256 := by rw [← Nat.pow_add, Nat.add_sub_cancel' h]

/-- Settles O22: the bits are multiplied by the weight of the places a narrower channel leaves free. -/
theorem channelLeftAligned : Obligations.ChannelLeftAligned := by
  intro code d hd u
  refine ⟨channel_le (descriptorOf_width_le hd) u, ?_, ?_⟩ <;> rw [channel_eq]
  · exact Nat.mul_mod_left _ _
  · exact Nat.mul_div_cancel _ (Nat.two_pow_pos _)

/-! ## The unit at an address (rule R122) -/

theorem readUnit_byte {src : SampleSource} {a : Nat} (hwide : src.desc.wide = false) (h : a + 1 ≤ src.rawBytes) :
    readUnit src a = some (src.raw.read a).toNat := by
  rw [readUnit, hwide, memReadRaw_eq_some h]
  rfl

/-- A byte in front of another, as bits. -/
theorem mul_256_add_eq_or (high low : Byte) : high.toNat * 256 + low.toNat = high.toNat <<< 8 ||| low.toNat := by
  rw [← Nat.shiftLeft_add_eq_or_of_lt low.isLt, Nat.shiftLeft_eq]

/-- A two-byte unit, in the format's byte order. -/
theorem readUnit_pair {src : SampleSource} {a : Nat} (hwide : src.desc.wide = true) (h : a + 2 ≤ src.rawBytes) :
    readUnit src a = some (if src.desc.be then (src.raw.read a).toNat <<< 8 ||| (src.raw.read (a + 1)).toNat
      else (src.raw.read (a + 1)).toNat <<< 8 ||| (src.raw.read a).toNat) := by
  rw [readUnit, hwide, memReadRaw_eq_some h, ← mul_256_add_eq_or, ← mul_256_add_eq_or]
  cases src.desc.be <;> rfl

/-- A unit not wholly inside RAW is the fault (rule R66). -/
theorem readUnit_eq_none {src : SampleSource} {a : Nat} (h : src.rawBytes < a + src.desc.unitBytes) :
    readUnit src a = none := by
  unfold Config.PixelDescriptor.unitBytes at h
  unfold readUnit
  cases hwide : src.desc.wide with
  | false =>
    rw [hwide, if_neg Bool.false_ne_true] at h
    rw [if_neg Bool.false_ne_true, memReadRaw_eq_none h]
  | true =>
    rw [hwide, if_pos rfl] at h
    rw [if_pos rfl, memReadRaw_eq_none h]

/-! ## Samples (rules R72, R124) -/

/-- The samples of a Job whose format has a descriptor. -/
theorem sampleSource_eq {job : Job} {d : Config.PixelDescriptor} (h : descriptorOf job.pf = some d) (s : State)
    (base : Nat) : sampleSource s job base =
      { raw := s.raw, rawBytes := s.rawBytes, desc := d, start := base + job.skip.toNat } := by
  rw [sampleSource, descriptorOrFree_of_some h]

theorem sample_le {src : SampleSource} {k r : Nat} (hwidth : src.desc.width ≤ 8) (h : sample src k = some r) :
    r ≤ 255 := by
  obtain ⟨u, -, rfl⟩ := Option.map_eq_some_iff.mp h
  exact channel_le hwidth u

/-- Settles O21: where a sample's unit lies is read off the definitions, what it holds is said case by case above. -/
theorem unitBytes : Obligations.UnitBytes := by
  refine ⟨fun _ _ => rfl, fun s job d base hd => ⟨sampleSource_eq hd s base, fun hskip k => ?_⟩, fun s r j d hd => ?_,
    fun src a => ⟨readUnit_byte, fun hwide hbe h => ?_, fun hwide hbe h => ?_, readUnit_eq_none⟩⟩
  · rw [sampleSource_eq hd, hskip]
    rfl
  · dsimp only
    rw [sliceOn, sampleSource_eq hd]
  · rw [readUnit_pair hwide h, hbe, if_pos rfl]
  · rw [readUnit_pair hwide h, hbe, if_neg Bool.false_ne_true]

/-! ## Interpolation (rule R133) -/

theorem tickSum_eq {n : Nat} (hn : n ≤ 3) (r0 r1 : Nat) : (tickSum r0 r1 n : ℤ) = 4 * r0 + n * ((r1 : ℤ) - r0) := by
  have hle : n ≤ Config.oversampling := hn.trans (by decide)
  rw [tickSum, Nat.cast_add, Nat.cast_mul, Nat.cast_mul, Nat.cast_sub hle]
  simp only [Config.oversampling]
  ring

/-- A weighted sum of two samples is at most the whole weight times the greatest sample. -/
theorem weighted_le {w n x y : Nat} (hn : n ≤ w) (hx : x ≤ 255) (hy : y ≤ 255) : (w - n) * x + n * y ≤ w * 255 :=
  calc (w - n) * x + n * y ≤ (w - n) * 255 + n * 255 := by gcongr
    _ = w * 255 := by rw [← Nat.add_mul, Nat.sub_add_cancel hn]

theorem shiftRight_phaseFrac (i : Nat) : i >>> Config.phaseFrac = i / 256 := Nat.shiftRight_eq_div_pow i 8

theorem level256_eq_some {src : SampleSource} {k i s0 s1 : Nat} (h0 : sample src (k + i / 256) = some s0)
    (h1 : sample src (k + i / 256 + 1) = some s1) :
    level256 src k i = some ((256 - i % 256) * s0 + i % 256 * s1) := by
  rw [level256, shiftRight_phaseFrac, h0, h1]

theorem level256_eq_none {src : SampleSource} {k i : Nat}
    (h : sample src (k + i / 256) = none ∨ sample src (k + i / 256 + 1) = none) : level256 src k i = none := by
  rw [level256, shiftRight_phaseFrac]
  rcases h with h | h
  · rw [h]
  · rw [h]
    cases sample src (k + i / 256) <;> rfl

/-- Settles O23: both interpolations are sums of the two samples with weights that add up to 4 and to 256. -/
theorem interpolation : Obligations.Interpolation := by
  refine ⟨fun r0 r1 n hn => ⟨tickSum_eq hn r0 r1, rfl, fun h0 h1 => ?_⟩,
    fun src k i => ⟨fun s0 s1 h0 h1 => ⟨_, level256_eq_some h0 h1, ?_, fun hs0 hs1 => ?_⟩, level256_eq_none⟩⟩
  · exact weighted_le (w := 4) (by omega) h0 h1
  · have hf : i % 256 ≤ 256 := (Nat.mod_lt i (by decide)).le
    rw [Nat.cast_add, Nat.cast_mul, Nat.cast_mul, Nat.cast_sub hf]
    push_cast
    ring
  · exact weighted_le (w := 256) (Nat.mod_lt i (by decide)).le hs0 hs1

end Sys2Proof.Machine
end

section
/-! The tracked threshold (spec/41_slicer.md rule R154) and its step invariant (rule R168). -/

namespace Sys2Proof.Machine

/-! ## One update -/

/-- The update of rule R154 from a threshold within the bounds needs no reduction and stays within them: the threshold's
integer part is at most 382, and no sample or slope exceeds 255. -/
theorem thresholdUpdate_bounds {thresh r0 r1 : Nat} (ht : thresh < 195585) (h0 : r0 ≤ 255) (h1 : r1 ≤ 255) :
    0 ≤ (thresh : ℤ) + ((r0 : ℤ) - (thresh / 512 : ℕ)) * |(r1 : ℤ) - r0| ∧
    (thresh : ℤ) + ((r0 : ℤ) - (thresh / 512 : ℕ)) * |(r1 : ℤ) - r0| < 195585 := by
  have hslope : |(r1 : ℤ) - r0| ≤ 255 := abs_le.mpr ⟨by omega, by omega⟩
  have hslope0 : 0 ≤ |(r1 : ℤ) - r0| := abs_nonneg _
  generalize |(r1 : ℤ) - r0| = slope at *
  constructor
  · have hfall : (thresh / 512 : ℕ) * slope ≤ (thresh / 512 : ℕ) * 255 := by gcongr
    have hrise : 0 ≤ (r0 : ℤ) * slope := by positivity
    rw [sub_mul]
    omega
  · rcases le_total (thresh / 512) r0 with hle | hle
    · have hrise : ((r0 : ℤ) - (thresh / 512 : ℕ)) * slope ≤ (255 - (thresh / 512 : ℕ)) * 255 := by
        gcongr <;> omega
      omega
    · have hfall : ((r0 : ℤ) - (thresh / 512 : ℕ)) * slope ≤ 0 :=
        mul_nonpos_of_nonpos_of_nonneg (by omega) hslope0
      omega

theorem trackThreshold_eq {thresh r0 r1 : Nat} (ht : thresh < 195585) (h0 : r0 ≤ 255) (h1 : r1 ≤ 255) :
    (trackThreshold thresh (thresh / 512) r0 r1 : ℤ) =
      thresh + ((r0 : ℤ) - (thresh / 512 : ℕ)) * |(r1 : ℤ) - r0| := by
  obtain ⟨hlow, hhigh⟩ := thresholdUpdate_bounds ht h0 h1
  rw [trackThreshold, Int.natCast_natAbs, Int.emod_eq_of_lt hlow (hhigh.trans (by decide)), Int.toNat_of_nonneg hlow]

theorem trackThreshold_lt {thresh r0 r1 : Nat} (ht : thresh < 195585) (h0 : r0 ≤ 255) (h1 : r1 ≤ 255) :
    trackThreshold thresh (thresh / 512) r0 r1 < 195585 := by
  have hhigh := (thresholdUpdate_bounds ht h0 h1).2
  rw [← trackThreshold_eq ht h0 h1] at hhigh
  exact_mod_cast hhigh

/-! ## A whole SLICE -/

/-- The threshold a search leaves at a match is within the bounds, by induction on the samples left. -/
theorem search_found_thresh_lt {src : SampleSource} {job : Job} (hwidth : src.desc.width ≤ 8) :
    ∀ {left k thresh : Nat} {p : Pll} {k' tr thresh' : Nat}, thresh < 195585 →
      search src job left k thresh p = .found k' tr thresh' → thresh' < 195585
  | 0, _, _, _, _, _, _, _, h => by cases h
  | left + 1, k, thresh, p, k', tr, thresh', ht, h => by
    rw [search] at h
    split at h
    · next r0 r1 h0 h1 =>
      have hnext : trackThreshold thresh (thresh >>> Config.threshFrac) r0 r1 < 195585 := by
        rw [Nat.shiftRight_eq_div_pow]
        exact trackThreshold_lt ht (sample_le hwidth h0) (sample_le hwidth h1)
      dsimp only at h
      split at h
      · cases h
        exact hnext
      · exact search_found_thresh_lt hwidth hnext h
    · cases h

theorem sliceJob_matched_thresh_lt {src : SampleSource} {job : Job} {bits : List Bool} {thresh : Nat}
    (hwidth : src.desc.width ≤ 8) (ht : job.thresh.toNat < 195585) (h : sliceJob src job = .matched bits thresh) :
    thresh < 195585 := by
  unfold sliceJob at h
  split at h
  · cases h
  · cases h
  · next hfound =>
    obtain ⟨-, rfl⟩ := confirm_matched_length h
    exact search_found_thresh_lt hwidth ht hfound

end Sys2Proof.Machine

namespace Sys2Proof.Safety

open Sys2Proof.Machine

/-! ## The Job file -/

/-- What holds of every entry of the Job file and of the cleared Job holds of entry `j`, inside the file or not. -/
theorem job_getD_of_forall {p : Job → Prop} {jobs : List Job} (h : ∀ job ∈ jobs, p job) (hzero : p Job.zero) (j : Nat) :
    p (jobs.getD j Job.zero) := by
  rw [List.getD_eq_getElem?_getD]
  cases hj : jobs[j]? with
  | none => exact hzero
  | some job => exact h job (List.mem_of_getElem? hj)

/-- A removal moves Jobs and clears one entry. -/
theorem forall_mem_removedJobs {p : Job → Prop} {jobs : List Job} (h : ∀ job ∈ jobs, p job) (hzero : p Job.zero)
    (i n : Nat) : ∀ job ∈ removedJobs i n jobs, p job := fun job hjob => by
  obtain ⟨m, -, rfl⟩ := List.mem_map.mp hjob
  split_ifs
  · exact job_getD_of_forall h hzero m
  · exact job_getD_of_forall h hzero (m + 1)
  · exact hzero
  · exact job_getD_of_forall h hzero m

theorem setThresh_job_pf (s : State) (j k : Nat) (v : BitVec 32) : ((setThresh j v s).job k).pf = (s.job k).pf := by
  by_cases hj : j < s.jobs.length
  · by_cases hjk : j = k
    · subst hjk
      rw [setThresh_job_same hj]
    · rw [setThresh_job_other hjk]
  · rw [State.job, setThresh_jobs, List.set_eq_of_length_le (Nat.le_of_not_lt hj), State.job]

/-! ## The invariant -/

theorem ThresholdsOk.of_pat {s : State} (h : ThresholdsOk s) {pat : List Row} (hshape : ShapeOk { s with pat := pat }) :
    ThresholdsOk { s with pat := pat } :=
  ⟨hshape, h.formats, h.bound⟩

/-- The threshold of every Job, in use or not. -/
theorem ThresholdsOk.thresh_lt {s : State} (h : ThresholdsOk s) (j : Nat) : (s.job j).thresh.toNat < 195585 :=
  job_getD_of_forall (p := fun job => job.thresh.toNat < 195585) h.bound (by decide) j

/-- A match leaves a threshold tracked over samples of a known format. -/
theorem thresholdsOk_setThresh {s : State} (h : ThresholdsOk s) {j base thresh : Nat} {bits : List Bool}
    (hj : j < s.njobs.toNat)
    (hs : sliceJob (sampleSource s (s.job j) base) (s.job j) = .matched bits thresh)
    (hshape : ShapeOk (setThresh j (BitVec.ofNat 32 thresh) s)) :
    ThresholdsOk (setThresh j (BitVec.ofNat 32 thresh) s) := by
  obtain ⟨d, hd⟩ := Option.isSome_iff_exists.mp (h.formats j hj)
  have hlt : thresh < 195585 := by
    rw [sampleSource_eq hd] at hs
    exact sliceJob_matched_thresh_lt (descriptorOf_width_le hd) (h.thresh_lt j) hs
  refine ⟨hshape, fun k hk => ?_, forall_mem_set h.bound ?_⟩
  · rw [setThresh_job_pf]
    exact h.formats k hk
  · exact (toNat_ofNat_of_lt (by omega)).trans_lt hlt

theorem configuredJob_thresh_toNat (g : Geometry) (a : Staging) (oldId : BitVec 32) :
    (configuredJob g a oldId).thresh.toNat = 53760 := rfl

/-- A commit starts the threshold at its initial value, for an accepted format (spec/42_config.md rules R201, R206). -/
theorem thresholdsOk_commitJob {s : State} (h : ThresholdsOk s) {j : Nat}
    (hj : j < s.njobs.toNat ∨ (s.njobs ≠ 8 ∧ j = s.njobs.toNat)) (haccepted : jobaddAccepted s.geom s.staging = true)
    (hshape : ShapeOk (commitJob j s)) : ThresholdsOk (commitJob j s) := by
  obtain ⟨d, hinputs⟩ := acceptedInputs_of_jobaddAccepted haccepted
  refine ⟨hshape, fun k hk => ?_, forall_mem_set h.bound ?_⟩
  · rw [commitJob_njobs_toNat h.shape.njobs] at hk
    by_cases hjk : j = k
    · subst hjk
      rw [commitJob_job_same (h.shape.jobs.symm ▸ h.shape.index_lt hj)]
      exact Option.isSome_iff_exists.mpr ⟨d, hinputs.format⟩
    · rw [commitJob_job_other hjk]
      exact h.formats k (by split at hk <;> omega)
  · rw [configuredJob_thresh_toNat]
    decide

theorem thresholdsOk_removeJob {s : State} (h : ThresholdsOk s) {i : Nat} (hi : i < s.njobs.toNat) :
    ThresholdsOk (removeJob i s) := by
  refine ⟨h.shape.removeJob hi, fun k hk => ?_, forall_mem_removedJobs h.bound (by decide) i _⟩
  rw [removeJob_njobs_toNat hi] at hk
  rw [removeJob_job h.shape.jobs]
  split
  · exact h.formats k (by omega)
  · rw [if_pos (by omega)]
    exact h.formats (k + 1) (by omega)

theorem thresholdsOk_stepKeeps : StepKeeps ThresholdsOk where
  frame h hst := ⟨shapeOk_stepKeeps.frame h.shape hst, by simpa only [hst.njobs, hst.job] using h.formats,
    by simpa only [hst.jobs] using h.bound⟩
  geometry _ _ h0 h := ⟨shapeOk_stepKeeps.geometry _ _ h0 h.shape, h.formats, h.bound⟩
  clear s := ⟨shapeOk_stepKeeps.clear s, fun j hj => by simp at hj, fun job hjob => by
    rw [List.eq_of_mem_replicate hjob]
    decide⟩
  track s j base bits thresh h hj hs :=
    thresholdsOk_setThresh h hj hs (shapeOk_stepKeeps.track s j base bits thresh h.shape hj hs)
  hit s r i h hi hfront := h.of_pat (shapeOk_stepKeeps.hit s r i h.shape hi hfront)
  rest s r i h hi hrest hfront := h.of_pat (shapeOk_stepKeeps.rest s r i h.shape hi hrest hfront)
  jobadd s j h hadm := by
    have hshape := shapeOk_stepKeeps.jobadd s j h.shape hadm
    have hreserved := h.shape.reserveRows j (stagedRows s.staging)
    obtain ⟨pat, -, he⟩ := reserveRows_eq j (stagedRows s.staging) s
    rw [he] at hshape hreserved ⊢
    exact thresholdsOk_commitJob (h.of_pat hreserved) hadm.index hadm.accepted hshape
  rmsvc _ h := cmdRmsvc_keeps_of_removeJob
    (fun _ _ _ _ h => ⟨⟨h.shape.jobs, h.shape.njobs, h.shape.pat, h.shape.rows⟩, h.formats, h.bound⟩)
    (fun _ _ h hi => thresholdsOk_removeJob h hi) h

/-- Settles O53: a commit starts a threshold within the bounds, and a SLICE that matches tracks it within them. -/
theorem stepKeepsThresholds : Obligations.StepKeepsThresholds :=
  fun _ _ h hstep => thresholdsOk_stepKeeps.step_keeps h hstep

end Sys2Proof.Safety
end

section
/-! One tick of the clock-recovery PLL and one sample of the synchronisation search (spec/41_slicer.md rules R153 to R157), and
what a search does on a constant line (rule R172 (c)). -/

namespace Sys2Proof.Machine

variable {src : SampleSource} {job : Job} {k thresh tr r0 r1 v : Nat} {b : Bool} {p : Pll}

/-! ## One tick (rules R156, R157) -/

theorem pllTick_of_transition (h : b ≠ p.b1) :
    pllTick job b p = ({ p with cl := job.osRate.toNat / 2, b1 := b }, false) := by
  rw [pllTick, if_pos (bne_iff_ne.mpr h)]

theorem pllTick_of_count (h : b = p.b1) (hlt : p.cl + job.criRate.toNat < job.osRate.toNat) :
    pllTick job b p = ({ p with cl := p.cl + job.criRate.toNat, b1 := b }, false) := by
  rw [pllTick, if_neg (by simp [h])]
  exact if_neg (Nat.not_le.mpr hlt)

/-- The one branch that emits a bit. -/
theorem pllTick_of_overflow (h : b = p.b1) (hle : job.osRate.toNat ≤ p.cl + job.criRate.toNat) :
    pllTick job b p =
      ({ cl := p.cl + job.criRate.toNat - job.osRate.toNat, c := (2 * p.c + b.toNat) % 2 ^ 32, b1 := b },
        (2 * p.c + b.toNat) % 2 ^ 32 &&& job.criMask.toNat == job.cri.toNat) := by
  rw [pllTick, if_neg (by simp [h])]
  exact if_pos hle

/-- With at most one period added per tick the counter stays below two, whichever branch is taken (rule R23). -/
theorem pllTick_cl_lt (hrate : job.criRate.toNat ≤ job.osRate.toNat)
    (hcl : p.cl < job.osRate.toNat + job.criRate.toNat) :
    (pllTick job b p).1.cl < job.osRate.toNat + job.criRate.toNat := by
  by_cases h : b = p.b1
  · rcases Nat.lt_or_ge (p.cl + job.criRate.toNat) job.osRate.toNat with hlt | hle
    · rw [pllTick_of_count h hlt]
      dsimp only
      omega
    · rw [pllTick_of_overflow h hle]
      dsimp only
      omega
  · rw [pllTick_of_transition h]
    dsimp only
    omega

/-- Settles O25: the three branches of a tick, and the counter's range through each of them. -/
theorem pllTick_branches : Obligations.PllTick := by
  refine fun job b p => ⟨pllTick_of_transition, pllTick_of_count, fun h hle => ?_, fun _ => pllTick_cl_lt⟩
  rw [pllTick_of_overflow h hle]
  exact ⟨rfl, rfl, rfl, beq_iff_eq⟩

/-! ## The ticks of one sample (rules R155, R157) -/

theorem pllTicks_of_match {left n : Nat} (h : (pllTick job (decide (tr ≤ tickLevel r0 r1 n)) p).2 = true) :
    (pllTicks job tr r0 r1 (left + 1) n p).2 = true := by
  rcases hq : pllTick job (decide (tr ≤ tickLevel r0 r1 n)) p with ⟨q, m⟩
  obtain rfl : m = true := by rwa [hq] at h
  rw [pllTicks, hq]

theorem pllTicks_of_noMatch {left n : Nat} (h : (pllTick job (decide (tr ≤ tickLevel r0 r1 n)) p).2 = false) :
    pllTicks job tr r0 r1 (left + 1) n p =
      pllTicks job tr r0 r1 left (n + 1) (pllTick job (decide (tr ≤ tickLevel r0 r1 n)) p).1 := by
  rcases hq : pllTick job (decide (tr ≤ tickLevel r0 r1 n)) p with ⟨q, m⟩
  obtain rfl : m = false := by rwa [hq] at h
  rw [pllTicks, hq]

/-- The level of a tick as rule R133 (a) writes it. -/
theorem tickLevel_eq {n : Nat} (hn : n ≤ 3) (r0 r1 : Nat) :
    (tickLevel r0 r1 n : ℤ) = (4 * r0 + n * ((r1 : ℤ) - r0) + 2) / 4 := by
  rw [← tickSum_eq hn, tickLevel]
  norm_cast

theorem classify_eq {n : Nat} (hn : n ≤ 3) (tr r0 r1 : Nat) :
    decide (tr ≤ tickLevel r0 r1 n) = decide ((tr : ℤ) ≤ (4 * r0 + n * ((r1 : ℤ) - r0) + 2) / 4) := by
  rw [← tickLevel_eq hn, decide_eq_decide, Nat.cast_le]

/-! ## One sample (rules R153, R154) -/

theorem search_of_unread {left : Nat} (h : sample src k = none ∨ sample src (k + 1) = none) :
    search src job (left + 1) k thresh p = .overrun := by
  rw [search]
  rcases h with h | h
  · rw [h]
  · rw [h]
    cases sample src k <;> rfl

theorem search_of_read {left : Nat} (h0 : sample src k = some r0) (h1 : sample src (k + 1) = some r1) :
    search src job (left + 1) k thresh p =
      if (pllTicks job (thresh / 512) r0 r1 4 0 p).2 then
        .found k (thresh / 512) (trackThreshold thresh (thresh / 512) r0 r1)
      else search src job left (k + 1) (trackThreshold thresh (thresh / 512) r0 r1)
        (pllTicks job (thresh / 512) r0 r1 4 0 p).1 := by
  have hshift : thresh >>> Config.threshFrac = thresh / 512 := Nat.shiftRight_eq_div_pow thresh 9
  rw [search, h0, h1]
  simp only [hshift, Config.oversampling]
  rcases pllTicks job (thresh / 512) r0 r1 4 0 p with ⟨p', m⟩
  cases m <;> rfl

/-- Settles O26: the two endings, and the four ticks taken one after the other until the first that matches. -/
theorem searchOneSample : Obligations.SearchOneSample := by
  refine ⟨fun src job left k thresh p => ⟨rfl, search_of_unread⟩, ?_⟩
  intro src job left k thresh r0 r1 p h0 h1 tr tracked level q0 q1 q2 q3
  have htracked : trackThreshold thresh tr r0 r1 = tracked := by rw [trackThreshold, Int.natCast_natAbs]
  have htick (n : Nat) (hn : n ≤ 3) (p : Pll) :
      pllTick job (decide (tr ≤ tickLevel r0 r1 n)) p = pllTick job (level n) p := by rw [classify_eq hn]
  have hq0 : pllTick job (decide (tr ≤ tickLevel r0 r1 0)) p = q0 := htick 0 (by decide) p
  have hq1 : pllTick job (decide (tr ≤ tickLevel r0 r1 1)) q0.1 = q1 := htick 1 (by decide) q0.1
  have hq2 : pllTick job (decide (tr ≤ tickLevel r0 r1 2)) q1.1 = q2 := htick 2 (by decide) q1.1
  have hq3 : pllTick job (decide (tr ≤ tickLevel r0 r1 3)) q2.1 = q3 := htick 3 (by decide) q2.1
  rw [search_of_read h0 h1, htracked]
  cases hm0 : q0.2 with
  | true => rw [pllTicks_of_match (hq0 ▸ hm0)]; rfl
  | false =>
    rw [pllTicks_of_noMatch (hq0 ▸ hm0), hq0]
    cases hm1 : q1.2 with
    | true => rw [pllTicks_of_match (hq1 ▸ hm1)]; rfl
    | false =>
      rw [pllTicks_of_noMatch (hq1 ▸ hm1), hq1]
      cases hm2 : q2.2 with
      | true => rw [pllTicks_of_match (hq2 ▸ hm2)]; rfl
      | false =>
        rw [pllTicks_of_noMatch (hq2 ▸ hm2), hq2]
        cases hm3 : q3.2 with
        | true => rw [pllTicks_of_match (hq3 ▸ hm3)]; rfl
        | false => rw [pllTicks_of_noMatch (hq3 ▸ hm3), hq3]; rfl

/-- Settles O24: the update's value is in range before the reduction, which therefore does nothing. -/
theorem thresholdUpdateStaysInBounds : Obligations.ThresholdUpdateStaysInBounds :=
  fun _ _ _ ht h0 h1 => ⟨trackThreshold_eq ht h0 h1, trackThreshold_lt ht h0 h1⟩

/-! ## A constant line (rule R172 (c)) -/

/-- Without a slope the threshold stays. -/
theorem trackThreshold_constant (ht : thresh < 2 ^ 32) (tr v : Nat) : trackThreshold thresh tr v v = thresh := by
  rw [trackThreshold, sub_self, Int.natAbs_zero, Nat.cast_zero, mul_zero, add_zero]
  omega

theorem tickLevel_constant {n : Nat} (hn : n ≤ 3) (v : Nat) : tickLevel v v n = v := by
  have h := tickLevel_eq hn v v
  rw [sub_self, mul_zero, add_zero] at h
  omega

theorem search_constant_thresh : ∀ {left k thresh : Nat} {p : Pll} {k' tr thresh' : Nat},
    (∀ m ≤ k + left, sample src m = some v) → thresh < 2 ^ 32 →
    search src job left k thresh p = .found k' tr thresh' → thresh' = thresh
  | 0, _, _, _, _, _, _, _, _, h => by cases h
  | left + 1, k, thresh, p, k', tr, thresh', hline, ht, h => by
    rw [search_of_read (hline k (by omega)) (hline (k + 1) (by omega)), trackThreshold_constant ht] at h
    split at h
    · cases h
      rfl
    · exact search_constant_thresh (fun m hm => hline m (by omega)) ht h

/-- No bit 1 has been classified or emitted since the start. -/
structure Pll.Quiet (p : Pll) : Prop where
  c : p.c = 0
  b1 : p.b1 = false

theorem Pll.start_quiet : Pll.start.Quiet := ⟨rfl, rfl⟩

/-- A tick below the threshold emits a bit 0 if any, which completes no pattern but 0. -/
theorem Pll.Quiet.pllTick (h : p.Quiet) (hcri : job.cri ≠ 0) :
    (pllTick job false p).2 = false ∧ (pllTick job false p).1.Quiet := by
  rcases Nat.lt_or_ge (p.cl + job.criRate.toNat) job.osRate.toNat with hlt | hle
  · rw [pllTick_of_count h.b1.symm hlt]
    exact ⟨rfl, h.c, rfl⟩
  · have hzero : (0 == job.cri.toNat) = false := beq_false_of_ne fun h0 => hcri (BitVec.eq_of_toNat_eq h0.symm)
    rw [pllTick_of_overflow h.b1.symm hle, h.c]
    exact ⟨by simpa using hzero, rfl, rfl⟩

theorem Pll.Quiet.pllTicks_below (hcri : job.cri ≠ 0) (hv : v < tr) : ∀ {left n : Nat} {p : Pll}, p.Quiet → n + left ≤ 4 →
    (pllTicks job tr v v left n p).2 = false ∧ (pllTicks job tr v v left n p).1.Quiet
  | 0, _, _, h, _ => ⟨rfl, h⟩
  | left + 1, n, p, h, hn => by
    have hb : decide (tr ≤ tickLevel v v n) = false := by
      rw [tickLevel_constant (by omega)]
      exact decide_eq_false (Nat.not_le.mpr hv)
    obtain ⟨hm, hq⟩ := h.pllTick hcri
    rw [pllTicks_of_noMatch (by rwa [hb]), hb]
    exact hq.pllTicks_below hcri hv (by omega)

theorem Pll.Quiet.search_below (hcri : job.cri ≠ 0) (ht : thresh < 2 ^ 32) (hv : v < thresh / 512) :
    ∀ {left k : Nat} {p : Pll}, p.Quiet → (∀ m ≤ k + left, sample src m = some v) →
      search src job left k thresh p = .exhausted
  | 0, _, _, _, _ => rfl
  | left + 1, k, p, h, hline => by
    obtain ⟨hm, hq⟩ := h.pllTicks_below hcri hv (left := 4) (n := 0) (by decide)
    rw [search_of_read (hline k (by omega)) (hline (k + 1) (by omega)), hm, trackThreshold_constant ht]
    exact hq.search_below hcri ht hv fun m hm => hline m (by omega)

end Sys2Proof.Machine
end

section
/-! How a SLICE ends (spec/41_slicer.md rules R152, R158 to R160): the bits of the framing code and of the payload, read at
their positions behind the sample where the search ended. -/

namespace Sys2Proof.Machine

variable {src : SampleSource} {job : Job} {k tr thresh step : Nat} {bits frc : List Bool}

/-! ## Reading bits -/

/-- A read fails exactly where one of its bits fails. -/
theorem readBits_eq_none_iff : ∀ {n i : Nat},
    readBits src k tr step n i = none ↔ ∃ m < n, bitAt src k tr (i + m * step) = none
  | 0, _ => by simp [readBits]
  | n + 1, i => by
    rw [readBits, Nat.exists_lt_succ_left]
    simp only [Nat.zero_mul, Nat.add_zero, Nat.succ_mul, ← Nat.add_assoc, Nat.add_right_comm i _ step]
    cases bitAt src k tr i with
    | none => simp
    | some b => simp [readBits_eq_none_iff (n := n)]

/-- The bits a read gives are those at its positions. -/
theorem readBits_eq_some_iff : ∀ {n i : Nat} {bits : List Bool}, readBits src k tr step n i = some bits ↔
    bits.length = n ∧ ∀ m < n, bitAt src k tr (i + m * step) = some (bits.getD m false)
  | 0, _, bits => by simp [readBits, eq_comm]
  | n + 1, i, bits => by
    rw [readBits, Nat.forall_lt_succ_left]
    simp only [Nat.zero_mul, Nat.add_zero, Nat.succ_mul, ← Nat.add_assoc, Nat.add_right_comm i _ step]
    cases bitAt src k tr i with
    | none => simp
    | some b =>
      cases bits with
      | nil => simp
      | cons b' bits => simp [readBits_eq_some_iff (n := n), and_left_comm, and_assoc]

/-! ## The value of a bit string -/

theorem bitsValue_append_singleton (bits : List Bool) (b : Bool) :
    bitsValue (bits ++ [b]) = Nat.bit b (bitsValue bits) := by
  rw [bitsValue, List.foldl_append, Nat.bit_val]
  rfl

/-- The last bit of the string is bit 0 of its value. -/
theorem bitsValue_testBit (bits : List Bool) : ∀ i, (bitsValue bits).testBit i = bits.reverse.getD i false := by
  induction bits using List.reverseRecOn with
  | nil => intro i; simp [bitsValue]
  | append_singleton bits b ih =>
    intro i
    rw [bitsValue_append_singleton, List.reverse_append]
    cases i with
    | zero => simp
    | succ i => rw [Nat.testBit_bit_succ, ih i]; rfl

/-- The bits of a value, the first the most significant. -/
theorem bitsValue_eq_iff {w : Nat} : bitsValue bits = w ↔
    w < 2 ^ bits.length ∧ ∀ m < bits.length, w.testBit (bits.length - 1 - m) = bits.getD m false := by
  have hinside (m : Nat) (hm : m < bits.length) :
      (bitsValue bits).testBit (bits.length - 1 - m) = bits.getD m false := by
    rw [bitsValue_testBit, List.getD_reverse _ (by omega)]
    congr 1
    omega
  have hlt : bitsValue bits < 2 ^ bits.length := Nat.lt_pow_two_of_testBit _ fun i hi => by
    rw [bitsValue_testBit, List.getD_eq_default _ _ (by simpa using hi)]
  constructor
  · rintro rfl
    exact ⟨hlt, hinside⟩
  · rintro ⟨hw, hbits⟩
    refine Nat.eq_of_testBit_eq fun i => ?_
    by_cases hi : i < bits.length
    · have hm : bits.length - 1 - (bits.length - 1 - i) = i := by omega
      rw [← hm, hinside _ (by omega), hbits _ (by omega)]
    · have hpow : 2 ^ bits.length ≤ 2 ^ i := Nat.pow_le_pow_right (by decide) (by omega)
      rw [Nat.testBit_lt_two_pow (hlt.trans_le hpow), Nat.testBit_lt_two_pow (hw.trans_le hpow)]

/-! ## The framing code and the payload (rules R158, R160) -/

/-- The bit `m` behind the search's end, the framing code's bits first. -/
def framedBit (src : SampleSource) (job : Job) (k tr m : Nat) : Option Bool :=
  bitAt src k tr (job.phaseShift.toNat + m * job.step.toNat)

/-- The framing code as the SLICE reads it. -/
def readFraming (src : SampleSource) (job : Job) (k tr : Nat) : Option (List Bool) :=
  readBits src k tr job.step.toNat job.frcBits.toNat job.phaseShift.toNat

/-- The payload as the SLICE reads it. -/
def readPayload (src : SampleSource) (job : Job) (k tr : Nat) : Option (List Bool) :=
  readBits src k tr job.step.toNat job.payloadBits.toNat (job.phaseShift.toNat + job.frcBits.toNat * job.step.toNat)

theorem readFraming_eq_none_iff :
    readFraming src job k tr = none ↔ ∃ m < job.frcBits.toNat, framedBit src job k tr m = none :=
  readBits_eq_none_iff

theorem readFraming_eq_some_iff : readFraming src job k tr = some frc ↔
    frc.length = job.frcBits.toNat ∧ ∀ m < job.frcBits.toNat, framedBit src job k tr m = some (frc.getD m false) :=
  readBits_eq_some_iff

/-- The payload's positions follow those of the framing code. -/
theorem payloadPosition (job : Job) (n : Nat) :
    job.phaseShift.toNat + job.frcBits.toNat * job.step.toNat + n * job.step.toNat =
      job.phaseShift.toNat + (job.frcBits.toNat + n) * job.step.toNat := by
  ring

theorem readPayload_eq_none_iff : readPayload src job k tr = none ↔
    ∃ n < job.payloadBits.toNat, framedBit src job k tr (job.frcBits.toNat + n) = none := by
  simp only [readPayload, readBits_eq_none_iff, framedBit, payloadPosition]

theorem readPayload_eq_some_iff : readPayload src job k tr = some bits ↔
    bits.length = job.payloadBits.toNat ∧
    ∀ n < job.payloadBits.toNat, framedBit src job k tr (job.frcBits.toNat + n) = some (bits.getD n false) := by
  simp only [readPayload, readBits_eq_some_iff, framedBit, payloadPosition]

/-- The framing code of the Job, first bit the most significant. -/
def framingBit (job : Job) (m : Nat) : Bool := job.frc.toNat.testBit (job.frcBits.toNat - 1 - m)

/-- A framing code that was read is the Job's when it agrees bit by bit and the Job's fits its length. -/
theorem bitsValue_eq_frc_iff (h : readFraming src job k tr = some frc) : bitsValue frc = job.frc.toNat ↔
    job.frc.toNat < 2 ^ job.frcBits.toNat ∧ ∀ m < job.frcBits.toNat, framedBit src job k tr m = some (framingBit job m) := by
  obtain ⟨hlen, hbits⟩ := readFraming_eq_some_iff.mp h
  rw [bitsValue_eq_iff, hlen]
  refine and_congr_right fun _ => forall₂_congr fun m hm => ?_
  rw [hbits m hm, Option.some_inj, framingBit, eq_comm]

theorem confirm_of_framing_unread (h : readFraming src job k tr = none) : confirm src job k tr thresh = .overrun := by
  rw [readFraming] at h
  rw [confirm, h]

theorem confirm_of_framing_wrong (h : readFraming src job k tr = some frc) (hne : bitsValue frc ≠ job.frc.toNat) :
    confirm src job k tr thresh = .noMatch := by
  rw [readFraming] at h
  rw [confirm, h]
  exact if_pos hne

theorem confirm_of_framing_right (h : readFraming src job k tr = some frc) (he : bitsValue frc = job.frc.toNat) :
    confirm src job k tr thresh = (readPayload src job k tr).elim .overrun fun bits => .matched bits thresh := by
  rw [readFraming] at h
  rw [confirm, h]
  refine (if_neg (not_not.mpr he)).trans ?_
  unfold readPayload
  cases readBits src k tr job.step.toNat job.payloadBits.toNat
    (job.phaseShift.toNat + job.frcBits.toNat * job.step.toNat) <;> rfl

/-- A match means a framing code that was read and is the Job's, and a payload that was read. -/
theorem confirm_eq_matched_iff {thresh' : Nat} : confirm src job k tr thresh = .matched bits thresh' ↔
    job.frc.toNat < 2 ^ job.frcBits.toNat ∧ (∀ m < job.frcBits.toNat, framedBit src job k tr m = some (framingBit job m)) ∧
    readPayload src job k tr = some bits ∧ thresh' = thresh := by
  cases hf : readFraming src job k tr with
  | none =>
    obtain ⟨m, hm, hnone⟩ := readFraming_eq_none_iff.mp hf
    rw [confirm_of_framing_unread hf]
    refine iff_of_false (by simp) fun ⟨_, hall, _⟩ => ?_
    simp [hall m hm] at hnone
  | some frc =>
    rw [← and_assoc, ← bitsValue_eq_frc_iff hf]
    by_cases he : bitsValue frc = job.frc.toNat
    · rw [confirm_of_framing_right hf he]
      cases readPayload src job k tr <;> simp [he, eq_comm]
    · rw [confirm_of_framing_wrong hf he]
      simp [he]

theorem confirm_of_framingBit_wrong (hread : ∀ m < job.frcBits.toNat, framedBit src job k tr m ≠ none)
    (hwrong : 2 ^ job.frcBits.toNat ≤ job.frc.toNat ∨
      ∃ m < job.frcBits.toNat, framedBit src job k tr m = some (!framingBit job m)) :
    confirm src job k tr thresh = .noMatch := by
  cases hf : readFraming src job k tr with
  | none =>
    obtain ⟨m, hm, hnone⟩ := readFraming_eq_none_iff.mp hf
    exact absurd hnone (hread m hm)
  | some frc =>
    refine confirm_of_framing_wrong hf fun he => ?_
    obtain ⟨hlt, hall⟩ := (bitsValue_eq_frc_iff hf).mp he
    rcases hwrong with hle | ⟨m, hm, hbit⟩
    · exact absurd hlt (Nat.not_lt.mpr hle)
    · simp [hall m hm] at hbit

/-- With the right framing code the payload decides. -/
theorem confirm_of_payload_unread (hlt : job.frc.toNat < 2 ^ job.frcBits.toNat)
    (hframing : ∀ m < job.frcBits.toNat, framedBit src job k tr m = some (framingBit job m))
    (hunread : readPayload src job k tr = none) : confirm src job k tr thresh = .overrun := by
  cases hf : readFraming src job k tr with
  | none => exact confirm_of_framing_unread hf
  | some frc => rw [confirm_of_framing_right hf ((bitsValue_eq_frc_iff hf).mpr ⟨hlt, hframing⟩), hunread, Option.elim_none]

/-! ## The whole SLICE -/

theorem sliceJob_of_exhausted (h : search src job job.criSamples.toNat 0 job.thresh.toNat Pll.start = .exhausted) :
    sliceJob src job = .noMatch := by
  rw [sliceJob, h]

theorem sliceJob_of_overrun (h : search src job job.criSamples.toNat 0 job.thresh.toNat Pll.start = .overrun) :
    sliceJob src job = .overrun := by
  rw [sliceJob, h]

theorem sliceJob_of_found (h : search src job job.criSamples.toNat 0 job.thresh.toNat Pll.start = .found k tr thresh) :
    sliceJob src job = confirm src job k tr thresh := by
  rw [sliceJob, h]

/-- A match comes from the confirmation behind the sample the search found. -/
theorem found_of_sliceJob_matched (h : sliceJob src job = .matched bits thresh) :
    ∃ k tr, search src job job.criSamples.toNat 0 job.thresh.toNat Pll.start = .found k tr thresh ∧
      confirm src job k tr thresh = .matched bits thresh := by
  cases hs : search src job job.criSamples.toNat 0 job.thresh.toNat Pll.start with
  | exhausted => cases (sliceJob_of_exhausted hs).symm.trans h
  | overrun => cases (sliceJob_of_overrun hs).symm.trans h
  | found k tr thresh' =>
    rw [sliceJob_of_found hs] at h
    obtain ⟨-, rfl⟩ := confirm_matched_length h
    exact ⟨k, tr, rfl, h⟩

/-- Settles O27: the search's endings, and behind a found sample the framing code and the payload bit by bit. -/
theorem matchMeansFramed : Obligations.MatchMeansFramed := by
  refine ⟨rfl, fun _ _ _ _ => rfl, fun src job => ?_, ?_⟩
  · intro found
    refine ⟨sliceJob_of_exhausted, sliceJob_of_overrun, fun k tr thresh hfound => ?_⟩
    intro bit framing
    rw [sliceJob_of_found hfound]
    refine ⟨fun hnone => confirm_of_framing_unread (readFraming_eq_none_iff.mpr hnone), confirm_of_framingBit_wrong,
      fun hlt hframing => ⟨fun hnone => ?_, fun bits hlen hbits => ?_⟩⟩
    · exact confirm_of_payload_unread hlt hframing (readPayload_eq_none_iff.mpr hnone)
    · exact confirm_eq_matched_iff.mpr ⟨hlt, hframing, readPayload_eq_some_iff.mpr ⟨hlen, hbits⟩, rfl⟩
  · intro src job bits thresh h
    obtain ⟨k, tr, hfound, hconfirm⟩ := found_of_sliceJob_matched h
    obtain ⟨hlt, hframing, hpayload, -⟩ := confirm_eq_matched_iff.mp hconfirm
    obtain ⟨hlen, hbits⟩ := readPayload_eq_some_iff.mp hpayload
    exact ⟨k, tr, hfound, hlen, hlt, hframing, hbits⟩

/-- Settles O28: the search keeps its threshold on a constant line, and below the threshold its matcher stays at 0. -/
theorem constantLine : Obligations.ConstantLine := by
  intro src job v hline
  have hline' : ∀ m ≤ 0 + job.criSamples.toNat, sample src m = some v := by simpa using hline
  refine ⟨fun bits thresh h => ?_, fun hv hcri => ?_⟩
  · obtain ⟨k, tr, hfound, -⟩ := found_of_sliceJob_matched h
    exact search_constant_thresh hline' job.thresh.isLt hfound
  · exact sliceJob_of_exhausted (Pll.start_quiet.search_below hcri job.thresh.isLt hv hline')

/-! ## Packing (rules R161 to R164) -/

theorem packByte_getLsbD (msb : Bool) (pad : Byte) (bits : List Bool) {m : Nat} (hm : m < 8) :
    (packByte msb pad bits).getLsbD m = bits.getD (if msb then 7 - m else m) (pad.getLsbD m) := by
  rw [packByte, BitVec.getLsbD_ofFnLE, dif_pos hm]

/-- The bits of one byte are eight of the string's. -/
theorem chunk_getD {q m : Nat} (hm : m < 8) (h : 8 * q + m < bits.length) (x : Bool) :
    ((bits.drop (8 * q)).take 8).getD m x = bits.getD (8 * q + m) false := by
  rw [List.getD_eq_getElem _ _ h, List.getD_eq_getElem _ _ (by simp; omega), List.getElem_take, List.getElem_drop]

theorem pack_getD {endian : BitVec 2} {pad : Byte} {q : Nat} (h : 8 * q < bits.length) :
    (pack endian pad bits).getD q 0 = packByte (!endian.getLsbD 0) pad ((bits.drop (8 * q)).take 8) := by
  rw [List.getD_eq_getElem _ _ (by rw [pack_length]; omega)]
  simp [pack]

/-- Settles O29: byte `q` holds eight bits of the string, in the order its mode names. -/
theorem packBits : Obligations.PackBits := by
  intro endian pad bits
  refine ⟨pack_length endian pad bits, fun q m hm hlen => ⟨fun hodd => ?_, fun heven => ?_⟩⟩ <;>
    rw [pack_getD (by omega), packByte_getLsbD _ _ _ (by omega)]
  · have hlsb : endian.getLsbD 0 = true := by rcases hodd with rfl | rfl <;> rfl
    rw [hlsb, Bool.not_true, if_neg Bool.false_ne_true]
    exact chunk_getD hm hlen _
  · have hmsb : endian.getLsbD 0 = false := by rcases heven with rfl | rfl <;> rfl
    have hindex : 7 - (7 - m) = m := by omega
    rw [hmsb, Bool.not_false, if_pos rfl, hindex]
    exact chunk_getD hm hlen _

/-! ## A SLICE that fails (rules R159, R172 (a)) -/

theorem cmdSlice_of_overrun {s : State} {a : BitVec 3} {b : BitVec 16}
    (ha : a.toNat < s.njobs.toNat) (hb : b.toNat < s.params.outRecords)
    (h : sliceJob (sampleSource s (s.job a.toNat) s.staging.addr.toNat) (s.job a.toNat) = .overrun) :
    cmdSlice a b s = finish .rawOverrun 0 (retireSlicer s) := by
  rw [cmdSlice, if_neg (by omega), if_neg (by omega), runSlice_of_overrun h]

/-- Settles O32: either failure writes the result and retires the slicer's working registers. -/
theorem sliceFailureRestoresJob : Obligations.SliceFailureRestoresJob :=
  fun _ _ _ ha hb => ⟨fun h => ⟨_, exec_slice_eq (cmdSlice_of_noMatch ha hb h), rfl⟩,
    fun h => ⟨_, exec_slice_eq (cmdSlice_of_overrun ha hb h), rfl⟩⟩

/-- A search of no samples is exhausted at once. -/
theorem sliceJob_of_criSamples_zero (h : job.criSamples = 0) : sliceJob src job = .noMatch := by
  refine sliceJob_of_exhausted ?_
  rw [h]
  rfl

/-- Settles O33: the empty search reads no sample, so RAW plays no part. -/
theorem sliceOfEmptySearch : Obligations.SliceOfEmptySearch :=
  fun _ _ _ _ _ ha hb h => ⟨_, exec_slice_eq (cmdSlice_of_noMatch ha hb (sliceJob_of_criSamples_zero h)), rfl⟩

end Sys2Proof.Machine
end

section
/-! DECODE with RAW padded behind every row (spec/20_memory.md rule R66, spec/41_slicer.md rule R174, rule R314): no SLICE of
the walk leaves RAW, so the walk completes. -/

namespace Sys2Proof.Machine

open Sys2Proof.Safety

variable {rows : Nat} {s : State}

/-! ## The highest sample of a configured Job -/

/-- In every format a sample's unit ends in front of the next sample. -/
theorem descriptorOf_skip_add_unitBytes_le {code : BitVec 8} {d : Config.PixelDescriptor} (h : descriptorOf code = some d) :
    d.skip + d.unitBytes ≤ d.stride := by
  have hall : ∀ e ∈ pixelTable, e.2.skip + e.2.unitBytes ≤ e.2.stride := by decide
  exact hall (code, d) (descriptorOf_eq_some_iff.mp h)

/-- A search that examines a sample leaves behind it, on the line, the samples the framing code and the payload last. Their
last bit is read at most one sample and the phase shift past the line's end. -/
theorem lastSample_le {g : Geometry} {job : Job} {d : Config.PixelDescriptor} (h : JobConfigured g job d)
    (hcri : job.criSamples ≠ 0) : lastSample job ≤ job.lineSamples.toNat + job.phaseShift.toNat / 256 + 1 := by
  unfold lastSample
  have hexamined : job.criSamples.toNat ≠ 0 := fun h0 => hcri (BitVec.eq_of_toNat_eq h0)
  have hsamples := h.criSamples
  set bits := job.frcBits.toNat + job.payloadBits.toNat with hbits
  have hlength : job.rate.toNat * (job.payloadBits.toNat + job.frcBits.toNat) = job.rate.toNat * bits := by
    rw [hbits, Nat.add_comm]
  rw [hlength] at hsamples
  set length := job.rate.toNat * bits / job.bitRate.toNat
  have hspan : (bits - 1) * job.step.toNat < 256 * (length + 1) := by
    calc (bits - 1) * job.step.toNat ≤ bits * (256 * job.rate.toNat / job.bitRate.toNat) := by
          rw [h.step]
          gcongr
          omega
      _ ≤ bits * (256 * job.rate.toNat) / job.bitRate.toNat := Nat.mul_div_le_mul_div_assoc _ _ _
      _ < 256 * (length + 1) := by
          rw [Nat.div_lt_iff_lt_mul h.bitRateMin]
          have hlt : job.rate.toNat * bits < (length + 1) * job.bitRate.toNat :=
            Nat.lt_mul_of_div_lt (Nat.lt_succ_self _) h.bitRateMin
          linarith
  omega

/-! ## SLICEs that stay inside RAW -/

/-- The search is empty, or the highest sample lies inside RAW. -/
def StaysInside (src : SampleSource) (job : Job) : Prop := job.criSamples = 0 ∨ src.Covers (lastSample job)

theorem StaysInside.sliceJob_ne_overrun {src : SampleSource} {job : Job} (h : StaysInside src job) :
    sliceJob src job ≠ .overrun := by
  rcases h with h0 | hcovers
  · rw [sliceJob_of_criSamples_zero h0]
    nofun
  · exact hcovers.sliceJob_ne_overrun

/-- A Job whose row is padded for its format and phase shift (rule R314). -/
theorem staysInside_of_padded {g : Geometry} {job : Job} {d : Config.PixelDescriptor} (h : JobConfigured g job d)
    {row : Nat} (hpad : row + g.bpl.toNat + d.stride * (2 + job.phaseShift.toNat / 256) ≤ s.rawBytes) :
    StaysInside (sampleSource s job (row + job.offset.toNat)) job := by
  by_cases hcri : job.criSamples = 0
  · exact .inl hcri
  refine .inr ?_
  rw [SampleSource.Covers, sampleSource_eq h.format, h.skip]
  have hline : job.lineSamples.toNat * d.stride ≤ g.bpl.toNat - job.offset.toNat := by
    rw [h.lineSamples]
    exact Nat.div_mul_le_self _ _
  have hlast : lastSample job * d.stride ≤ (job.lineSamples.toNat + job.phaseShift.toNat / 256 + 1) * d.stride :=
    Nat.mul_le_mul_right _ (lastSample_le h hcri)
  have hunit := descriptorOf_skip_add_unitBytes_le h.format
  have hoffset := h.offset
  dsimp only
  have hsum : (job.lineSamples.toNat + job.phaseShift.toNat / 256 + 1) * d.stride + d.stride =
      job.lineSamples.toNat * d.stride + d.stride * (2 + job.phaseShift.toNat / 256) := by ring
  omega

/-! ## The walk -/

/-- No Job's SLICE leaves RAW on the rows below `rows`. -/
def RowsPadded (rows : Nat) (s : State) : Prop :=
  ∀ r < rows, ∀ j < s.njobs.toNat, StaysInside (sampleSource s (s.job j) (jobBase s r j)) (s.job j)

/-- A tracked threshold is no part of what a SLICE reads. -/
theorem setThresh_job_eq (s : State) (j k : Nat) (v : BitVec 32) :
    ∃ thresh, (setThresh j v s).job k = { s.job k with thresh := thresh } := by
  by_cases hj : j < s.jobs.length
  · by_cases hjk : j = k
    · subst hjk
      exact ⟨v, setThresh_job_same hj v⟩
    · exact ⟨(s.job k).thresh, setThresh_job_other hjk v⟩
  · refine ⟨(s.job k).thresh, ?_⟩
    rw [State.job, setThresh_jobs, List.set_eq_of_length_le (Nat.le_of_not_lt hj)]
    rfl

theorem RowsPadded.setThresh (h : RowsPadded rows s) (j : Nat) (v : BitVec 32) : RowsPadded rows (setThresh j v s) := by
  intro r hr k hk
  obtain ⟨thresh, he⟩ := setThresh_job_eq s j k v
  rw [jobBase, he]
  exact h r hr k hk

theorem walkKeeps_rowsPadded (rows : Nat) : WalkKeeps (RowsPadded rows) where
  retire _ h := h
  track _ j _ _ thresh h _ _ := h.setThresh j (BitVec.ofNat 32 thresh)
  hit _ _ _ _ _ _ _ h _ _ _ _ _ _ _ := h
  rest _ _ _ h _ _ _ := h

theorem walkKeeps_retest (v : BitVec 4) : WalkKeeps fun s => s.retest = v where
  retire _ h := h
  track _ _ _ _ _ h _ _ := h
  hit _ _ _ _ _ _ _ h _ _ _ _ _ _ _ := h
  rest _ _ _ h _ _ _ := h

theorem RowsPadded.walkSlots_ne_overrun {cap r : Nat} (hr : r < rows) : ∀ {left i n : Nat} {s : State}, RowsPadded rows s →
    (walkSlots cap r left i n s).1 ≠ .overrun
  | 0, _, _, _, _ => nofun
  | left + 1, i, n, s, h => by
    cases hv : isJobSlot (slotAt (s.row r) i) with
    | false =>
      rw [walkSlots_rest hv]
      nofun
    | true =>
      rcases Nat.lt_or_ge s.njobs.toNat (slotAt (s.row r) i).toNat with hd | hd
      · rw [walkSlots_dangling hv hd]
        exact h.walkSlots_ne_overrun hr
      by_cases hn : n = cap
      · subst hn
        rw [walkSlots_full hv hd]
        nofun
      have hj : slotJob (slotAt (s.row r) i) < s.njobs.toNat := by
        have := isJobSlot_pos hv
        unfold slotJob
        omega
      rw [walkSlots_tested hv hd hn]
      rcases runSlice_cases (slotJob (slotAt (s.row r) i)) (jobBase s r (slotJob (slotAt (s.row r) i))) s with
        ⟨bits, thresh, hs, he⟩ | ⟨-, he⟩ | ⟨hs, -⟩
      · rw [he]
        dsimp only
        split
        · nofun
        · exact ((walkKeeps_rowsPadded rows).track s _ _ bits thresh h hj hs).walkSlots_ne_overrun hr
      · rw [he]
        exact h.walkSlots_ne_overrun (s := retireSlicer s) hr
      · exact absurd hs (h r hr _ hj).sliceJob_ne_overrun

theorem RowsPadded.walkRows_ne_overrun {cap : Nat} : ∀ {left r n : Nat} {s : State}, RowsPadded rows s →
    cap = outputCap s → r + left ≤ rows → (walkRows cap left r n s).1 ≠ .overrun
  | 0, _, _, _, _, _, _ => nofun
  | left + 1, r, n, s, h, hcap, hle => by
    have hrow := h.walkSlots_ne_overrun (cap := cap) (r := r) (left := 8) (i := 0) (n := n) (by omega)
    have hnext := (walkKeeps_rowsPadded rows).walkSlots_keeps (cap := cap) (r := r) (n := n) (Nat.zero_add 8) hcap
      (by simp) h
    obtain ⟨hparams, hstaging⟩ := (walkKeeps_operands s.params s.staging).walkSlots_keeps (cap := cap) (r := r) (n := n)
      (Nat.zero_add 8) hcap (by simp) ⟨rfl, rfl⟩
    rw [walkRows, show Config.maxWays = 8 from rfl]
    rcases he : walkSlots cap r 8 0 n s with ⟨e, n', t⟩
    rw [he] at hrow hnext hparams hstaging
    cases e with
    | ended =>
      refine hnext.walkRows_ne_overrun ?_ (by omega)
      rw [hcap, outputCap, outputCap, hparams, hstaging]
    | full => nofun
    | overrun => exact absurd rfl hrow

/-- Settles O45: every row is padded for every Job, the walk keeps that, and so it ends without the fault. -/
theorem decodeNeverOverruns : Obligations.DecodeNeverOverruns := by
  intro s hjobs hframe hpad
  have hpadded : RowsPadded (rowCount s.geom) s := fun r hr j hj => by
    obtain ⟨d, hd⟩ := hjobs.jobs j hj
    exact staysInside_of_padded hd (hpad j hj d hd.format r hr)
  have hnever := hpadded.walkRows_ne_overrun (n := 0) (r := 0) rfl (Nat.zero_add _).le
  have hretest := (walkKeeps_retest s.retest).walkRows_keeps (left := rowCount s.geom) (r := 0) (n := 0) (s := s) rfl rfl
  rcases cmdDecode_cases s with ⟨hlt, -⟩ | ⟨-, e, n, t, hw, hend⟩
  · exact absurd hframe (Nat.not_le_of_lt hlt)
  rw [hw] at hnever hretest
  rcases hend with ⟨rfl, -⟩ | ⟨-, he⟩
  · exact absurd rfl hnever
  · refine ⟨complete (cmdDecode s), rfl, ?_, ?_⟩ <;> rw [he]
    · rfl
    · exact congrArg (· + 1) hretest

end Sys2Proof.Machine
end

section
/-! Register access and the way of a transaction to its instruction (spec/42_config.md rules R190 to R194), and the row ranges
of ADDSVC (rule R214). -/

namespace Sys2Proof.Machine

open Sys2Proof.Safety

/-! ## Register numbers (spec/30_encoding.md rule R94) -/

/-- The number of a geometry register. -/
def GeomReg.number : GeomReg → BitVec 7
  | .pixfmt => 0x00
  | .rate => 0x01
  | .bpl => 0x02
  | .offset => 0x03
  | .start0 => 0x04
  | .start1 => 0x05
  | .count0 => 0x06
  | .count1 => 0x07
  | .flags => 0x08
  | .scan => 0x09

theorem number_of_regName_geom {reg : BitVec 7} {g : GeomReg} (h : regName reg = .geom g) : reg = g.number := by
  apply BitVec.eq_of_toNat_eq
  unfold regName at h
  split at h <;> cases h <;> assumption

theorem regName_status_range {reg : BitVec 7} {r : StatusReg} (h : regName reg = .status r) :
    0x20 ≤ reg.toNat ∧ reg.toNat ≤ 0x24 := by
  unfold regName at h
  split at h <;> simp_all

theorem regName_reserved_range {reg : BitVec 7} (h : regName reg = .reserved) :
    0x09 < reg.toNat ∧ ¬ (0x10 ≤ reg.toNat ∧ reg.toNat ≤ 0x1C) := by
  refine ⟨Nat.lt_of_not_le fun hle => ?_, fun ⟨hge, hle⟩ => ?_⟩ <;> interval_cases hn : reg.toNat <;>
    simp [regName, hn] at h

/-! ## Reads and writes of a named register -/

theorem readReg_of_geom {reg : BitVec 7} {g : GeomReg} (h : regName reg = .geom g) (s : State) :
    readReg s reg = readGeom s.geom g := by
  simp only [readReg, h]

theorem readReg_of_stage {reg : BitVec 7} {a : StageReg} (h : regName reg = .stage a) (s : State) :
    readReg s reg = readStage s.staging a := by
  simp only [readReg, h]

/-- `CMD` and the reserved numbers read 0 (rules R91, R106). -/
theorem readReg_of_unreadable {reg : BitVec 7} (h : regName reg = .cmd ∨ regName reg = .reserved) (s : State) :
    readReg s reg = 0 := by
  rcases h with h | h <;> simp only [readReg, h]

/-- A geometry register reads back the bits it has (`WidthMask`, rule R190). -/
theorem readGeom_writeGeom (geom : Geometry) (v : BitVec 32) (g : GeomReg) :
    readGeom (writeGeom geom v g) g = v &&& widthMask g.number := by
  have hcut : ∀ w : Nat, w ≤ 32 → (v.setWidth w).setWidth 32 = v &&& lowMask w := fun w hw => by
    apply BitVec.eq_of_toNat_eq
    have hv := v.isLt
    rw [and_lowMask_toNat v hw, BitVec.toNat_setWidth, BitVec.toNat_setWidth]
    exact Nat.mod_eq_of_lt ((Nat.mod_le _ _).trans_lt hv)
  have hall : v = v &&& 0xFFFFFFFF := (BitVec.and_allOnes (x := v)).symm
  cases g with
  | pixfmt => exact hcut 8 (by omega)
  | flags => exact hcut 2 (by omega)
  | scan => exact hcut 10 (by omega)
  | _ => exact hall

@[simp] theorem readStage_writeStage (a : Staging) (v : BitVec 32) (r : StageReg) :
    readStage (writeStage a v r) r = v := by
  cases r <;> rfl

theorem widthMask_of_stage {reg : BitVec 7} (h : 0x10 ≤ reg.toNat) : widthMask reg = BitVec.allOnes 32 := by
  have hne : ∀ k : BitVec 7, k.toNat ≤ 0x09 → reg ≠ k := fun k hk he => by
    subst he
    omega
  rw [widthMask, if_neg (hne _ (by decide)), if_neg (hne _ (by decide)), if_neg (hne _ (by decide))]
  rfl

theorem writeGeometry_unlocked {s : State} (h : s.njobs = 0) (g : GeomReg) (v : BitVec 32) :
    writeGeometry g v s = { s with geom := writeGeom s.geom v g } := if_neg (not_not.mpr h)

/-- A write of a geometry register while no Job exists, as an instruction. -/
theorem exec_wr_geom {s : State} (h : s.njobs = 0) {reg : BitVec 7} {g : GeomReg} (hreg : regName reg = .geom g)
    (v : BitVec 32) : exec (.wr reg v) s = .next { s with geom := writeGeom s.geom v g, host := s.host.tail } := by
  rw [exec, execWr, writeReg_of_geom hreg, writeGeometry_unlocked h]
  rfl

/-- A write of a staging register, as an instruction. -/
theorem exec_wr_stage {reg : BitVec 7} {a : StageReg} (hreg : regName reg = .stage a) (v : BitVec 32) (s : State) :
    exec (.wr reg v) s = .next { s with staging := writeStage s.staging v a, host := s.host.tail } := by
  rw [exec, execWr, writeReg_of_stage hreg]
  rfl

/-- A write of a status register or of a reserved number, as an instruction. -/
theorem exec_wr_ignored {reg : BitVec 7} (h : (∃ r, regName reg = .status r) ∨ regName reg = .reserved) (v : BitVec 32)
    (s : State) : exec (.wr reg v) s = .next { s with host := s.host.tail } := by
  have hsame : writeReg reg v s = s := by
    rcases h with ⟨r, h⟩ | h
    · exact writeReg_of_status h v s
    · exact writeReg_of_reserved h v s
  rw [exec, execWr, hsame]
  rfl

theorem exec_rd (reg : BitVec 7) (s : State) :
    exec (.rd reg) s = .next { s with reply := some (readReg s reg), host := s.host.tail } := rfl

/-- Settles O10: the reply is the read value, by the register the number names. -/
theorem readRegister : Obligations.ReadRegister := by
  intro s reg
  have hwidth : ∀ {w : Nat} (x : BitVec w), w ≤ 32 → (x.setWidth 32).toNat = x.toNat := fun x hw =>
    BitVec.toNat_setWidth_of_le hw
  have hzero : (0x0A ≤ reg.toNat ∧ reg.toNat ≤ 0x0F) ∨ (0x1D ≤ reg.toNat ∧ reg.toNat ≤ 0x1F) ∨ 0x25 ≤ reg.toNat →
      readReg s reg = 0 := fun h => by
    cases hreg : regName reg with
    | geom g =>
      have := regName_geom_le hreg
      omega
    | stage a =>
      have := regName_stage_range hreg
      omega
    | status r =>
      have := regName_status_range hreg
      omega
    | cmd => exact readReg_of_unreadable (.inl hreg) s
    | reserved => exact readReg_of_unreadable (.inr hreg) s
  refine ⟨readReg s reg, exec_rd reg s, ?_⟩
  refine ⟨?pixfmt, ?_, ?_, ?_, ?_, ?_, ?_, ?_, ?flags, ?scan, ?_, ?_, ?_, ?_, ?_, ?_, ?_, ?_, ?_, ?_, ?_, ?_, ?_, ?result,
    ?_, ?_, ?njobs, ?retest, hzero⟩
  case pixfmt => rintro rfl; exact hwidth s.geom.pixfmt (by omega)
  case flags => rintro rfl; exact hwidth s.geom.flags (by omega)
  case scan => rintro rfl; exact hwidth s.geom.scan (by omega)
  case result => rintro rfl; exact hwidth s.result (by omega)
  case njobs => rintro rfl; exact hwidth s.njobs (by omega)
  case retest => rintro rfl; exact hwidth s.retest (by omega)
  all_goals
    rintro rfl
    rfl

/-- Settles O11: each number by the register it names. -/
theorem writeRegister : Obligations.WriteRegister := by
  intro s v
  have hgeom (g : GeomReg) (h0 : s.njobs = 0) (reg : BitVec 7) (hreg : regName reg = .geom g) := exec_wr_geom h0 hreg v
  have hstage (a : StageReg) (reg : BitVec 7) (hreg : regName reg = .stage a) := exec_wr_stage hreg v s
  refine ⟨fun h0 => ⟨hgeom .pixfmt h0 _ rfl, hgeom .rate h0 _ rfl, hgeom .bpl h0 _ rfl, hgeom .offset h0 _ rfl,
    hgeom .start0 h0 _ rfl, hgeom .start1 h0 _ rfl, hgeom .count0 h0 _ rfl, hgeom .count1 h0 _ rfl, hgeom .flags h0 _ rfl,
    hgeom .scan h0 _ rfl⟩, hstage .id _ rfl, hstage .group _ rfl, hstage .offset _ rfl, hstage .criFrc _ rfl,
    hstage .criMask _ rfl, hstage .bits _ rfl, hstage .criRate _ rfl, hstage .bitRate _ rfl, hstage .payload _ rfl,
    hstage .rows0 _ rfl, hstage .rows1 _ rfl, hstage .outCap _ rfl, hstage .addr _ rfl,
    fun reg hrange => exec_wr_ignored ?_ v s⟩
  cases hreg : regName reg with
  | geom g =>
    have := regName_geom_le hreg
    omega
  | stage a =>
    have := regName_stage_range hreg
    omega
  | status r => exact .inl ⟨r, rfl⟩
  | cmd =>
    rw [regName_cmd_eq hreg] at hrange
    simp at hrange
  | reserved => exact .inr rfl

/-- Settles O13: a geometry register keeps the bits it has, a staging register all of them. -/
theorem readAfterWrite : Obligations.ReadAfterWrite := by
  intro s reg v hwritable
  cases hreg : regName reg with
  | geom g =>
    have hle := regName_geom_le hreg
    have h0 : s.njobs = 0 := by
      rcases hwritable with ⟨-, h0⟩ | ⟨hge, -⟩
      · exact h0
      · omega
    refine ⟨_, _, exec_wr_geom h0 hreg v, exec_rd reg _, ?_⟩
    rw [readReg_of_geom hreg, readGeom_writeGeom, ← number_of_regName_geom hreg]
  | stage a =>
    refine ⟨_, _, exec_wr_stage hreg v s, exec_rd reg _, ?_⟩
    rw [readReg_of_stage hreg, readStage_writeStage, widthMask_of_stage (regName_stage_range hreg).1, BitVec.and_allOnes]
  | status r =>
    have := regName_status_range hreg
    omega
  | cmd =>
    rw [regName_cmd_eq hreg] at hwritable
    simp at hwritable
  | reserved =>
    have := regName_reserved_range hreg
    omega

/-! ## Commands -/

/-- A command's own word written to `CMD` runs the command (rule R194). -/
theorem exec_wr_cmd_of_wordOfCommand {i : Instr} {w : BitVec 32} (h : wordOfCommand i = some w) (s : State) :
    exec (.wr 0x7F w) s = exec i s := by
  have hexecute : exec (.wr 0x7F w) s = .next (complete (executeCommand w s)) := rfl
  rw [hexecute, executeCommand, commandOf_of_wordOfCommand h]
  cases i with
  | rd reg => cases h
  | wr reg data => cases h
  | _ => rfl

/-- Settles O5: each word is the command's own. -/
theorem commandThroughCmdRegister : Obligations.CommandThroughCmdRegister := by
  intro s
  refine ⟨exec_wr_cmd_of_wordOfCommand rfl s, exec_wr_cmd_of_wordOfCommand rfl s, exec_wr_cmd_of_wordOfCommand rfl s,
    exec_wr_cmd_of_wordOfCommand rfl s, fun a b => ?_⟩
  have hword : commandWord 0x05 (a.setWidth 8) b = BitVec.ofNat 32 (65536 * b.toNat + 256 * a.toNat + 5) := by
    apply BitVec.eq_of_toNat_eq
    have ha := a.isLt
    have hb := b.isLt
    rw [commandWord_toNat, BitVec.toNat_setWidth, BitVec.toNat_ofNat]
    simp
    omega
  exact exec_wr_cmd_of_wordOfCommand (i := .slice a b) (congrArg some hword) s

/-- Settles O14: RESET clears the two files, and writes the result registers. -/
theorem resetCommand : Obligations.ResetCommand := by
  intro s
  have hpat : (complete (cmdReset s)).pat = List.replicate s.params.maxLines blankRow := rfl
  refine ⟨complete (cmdReset s), rfl, rfl, fun j _ => clearJobs_job s j, by rw [hpat, List.length_replicate],
    fun r hr i hi => ?_, rfl⟩
  rw [State.row, hpat, List.getD_replicate _ hr]
  exact List.getD_replicate _ hi

theorem step_transaction {s : State} {w : Transaction} {rest : List HostAction} (hseq : s.seq = .idle)
    (hhost : s.host = .transaction w :: rest) : step s = exec (decode w) s := by
  simp only [step, hseq, hhost]

/-- Settles O6: the step is the decoded instruction, which takes its transaction off the host's list. -/
theorem stepRunsDecodedInstruction : Obligations.StepRunsDecodedInstruction := by
  rintro s w rest i hseq hhost rfl
  have hstep := step_transaction hseq hhost
  refine ⟨hstep, fun t ht => ?_⟩
  obtain ⟨u, hu, -, -, -, -, hlist, -⟩ := everyInstructionKeepsHostOwned (decode w) s
  obtain rfl : u = t := by
    rw [hstep, hu] at ht
    exact Host.Outcome.next.inj ht
  rw [hlist, hhost, List.tail_cons]

/-! ## Row ranges of ADDSVC (rule R214) -/

/-- Settles O60: the cases of the rule are the branches of the definition. -/
theorem addsvcRowRanges : Obligations.AddsvcRowRanges := by
  intro strictness first last start count row0 range stop
  refine ⟨fun hunused => if_pos hunused, fun hfirst hlast => ?_⟩
  have hused : ¬ (first = 0 ∨ last = 0) := by omega
  refine ⟨fun h0 => ?_, fun h0 hfree => ?_, fun h0 hstart hstrict => ?_⟩
  · exact (if_neg hused).trans (if_pos h0)
  · exact (if_neg hused).trans ((if_neg h0).trans (if_neg (by omega)))
  have hrange : range = if (1 < strictness ∨ first = last) ∧ (first < start ∨ stop < last) then none
      else if min stop last < max start first then none
      else some (row0 + max start first - start, min stop last - max start first + 1) :=
    (if_neg hused).trans ((if_neg h0).trans (if_pos (by omega)))
  rw [hrange]
  refine ⟨fun hall hout => if_pos ⟨hall, hout⟩, fun hnone => ?_, fun hsome h1 h2 h3 => ⟨_, _, rfl, rfl, ?_⟩⟩
  · split
    · rfl
    · exact if_pos (by omega)
  · rw [if_neg (by omega), if_neg (by omega)]
    congr 2 <;> omega

end Sys2Proof.Machine
end

section
/-! RMSVC (spec/42_config.md rules R208, R209): the Jobs that stay, and the rows of PAT. -/

namespace Sys2Proof.Safety

open Sys2Proof.Machine

/-! ## The Jobs that stay (rule R208) -/

/-- The Jobs below `NJOBS`. -/
def liveJobs (s : State) : List Job := s.jobs.take s.njobs.toNat

theorem liveJobs_length {s : State} (h : ShapeOk s) : (liveJobs s).length = s.njobs.toNat := by
  rw [liveJobs, List.length_take, h.jobs]
  exact Nat.min_eq_left h.njobs

theorem liveJobs_getElem {s : State} {j : Nat} (hj : j < (liveJobs s).length) : (liveJobs s)[j] = s.job j := by
  have hlen : j < s.jobs.length := hj.trans_le (List.length_take_le' _ _)
  rw [State.job, List.getD_eq_getElem _ _ hlen]
  exact List.getElem_take

theorem liveJobs_removeJob {s : State} (h : ShapeOk s) {i : Nat} (hi : i < s.njobs.toNat) :
    liveJobs (removeJob i s) = (liveJobs s).eraseIdx i := by
  have hlive := liveJobs_length h
  have hlen := liveJobs_length (h.removeJob hi)
  rw [removeJob_njobs_toNat hi] at hlen
  refine List.ext_getElem (by rw [hlen, List.length_eraseIdx_of_lt (by omega), hlive]) fun k hk _ => ?_
  rw [liveJobs_getElem, removeJob_job h.jobs, List.getElem_eraseIdx]
  by_cases hki : k < i
  · rw [if_pos hki, dif_pos hki, liveJobs_getElem]
  · rw [if_neg hki, dif_neg hki, if_pos (by omega), liveJobs_getElem]

/-- A Job that carries none of the requested identifiers. -/
def unrequested (requested : BitVec 32) (job : Job) : Bool := job.id &&& requested == 0

theorem unrequested_iff {requested : BitVec 32} {job : Job} :
    unrequested requested job = true ↔ job.id &&& requested = 0 := beq_iff_eq

/-- The loop from Job `i` on: the Jobs in front stay, and of the others the unrequested ones. -/
theorem liveJobs_removeLoop (requested : BitVec 32) :
    ∀ {left i : Nat} {s : State}, ShapeOk s → i + left = s.njobs.toNat →
      liveJobs (removeLoop requested left i s) =
        (liveJobs s).take i ++ ((liveJobs s).drop i).filter (unrequested requested)
  | 0, i, s, h, hi => by
    have hlen := liveJobs_length h
    rw [removeLoop, List.take_of_length_le (by omega), List.drop_of_length_le (by omega), List.filter_nil,
      List.append_nil]
  | left + 1, i, s, h, hi => by
    have hlt : i < s.njobs.toNat := by omega
    have hlive : i < (liveJobs s).length := by rwa [liveJobs_length h]
    have htake : ((liveJobs s).take i).length = i := List.length_take_of_le hlive.le
    rw [removeLoop, List.drop_eq_getElem_cons hlive, liveJobs_getElem]
    split
    · next hid =>
      rw [liveJobs_removeLoop requested (h.removeJob hlt) (by rw [removeJob_njobs_toNat hlt]; omega),
        liveJobs_removeJob h hlt, List.eraseIdx_eq_take_drop_succ, List.take_left' htake, List.drop_left' htake,
        List.filter_cons_of_neg (unrequested_iff.not.mpr hid)]
    · next hid =>
      rw [liveJobs_removeLoop requested h (by omega), List.filter_cons_of_pos (unrequested_iff.mpr (not_not.mp hid)),
        ← List.take_concat_get' _ _ hlive, liveJobs_getElem, List.append_assoc, List.singleton_append]

/-- The state after RMSVC's loop. -/
def purged (s : State) : State := removeLoop s.staging.id s.njobs.toNat 0 s

theorem purged_keeps {P : State → Prop} (hstep : ∀ i s, P s → i < s.njobs.toNat → P (removeJob i s)) {s : State}
    (hP : P s) : P (purged s) :=
  removeLoop_keeps_of_lt hstep (Nat.zero_add _) hP

theorem purged_shape {s : State} (h : ShapeOk s) : ShapeOk (purged s) := purged_keeps (fun _ _ h hi => h.removeJob hi) h

theorem purged_liveJobs {s : State} (h : ShapeOk s) :
    liveJobs (purged s) = (liveJobs s).filter (unrequested s.staging.id) := by
  rw [purged, liveJobs_removeLoop _ h (Nat.zero_add _)]
  rfl

theorem purged_job_unrequested {s : State} (h : ShapeOk s) {j : Nat} (hj : j < (purged s).njobs.toNat) :
    unrequested s.staging.id ((purged s).job j) = true := by
  have hlt : j < (liveJobs (purged s)).length := by rwa [liveJobs_length (purged_shape h)]
  have hmem := List.getElem_mem hlt
  rw [liveJobs_getElem, purged_liveJobs h] at hmem
  exact (List.mem_filter.mp hmem).2

/-- The Job file is the Jobs and the cleared entries behind them. -/
theorem UnusedZero.jobs_eq {s : State} (h : UnusedZero s) :
    s.jobs = liveJobs s ++ List.replicate (8 - (liveJobs s).length) Job.zero := by
  have hlive := liveJobs_length h.shape
  have hle := h.shape.njobs
  refine List.ext_getElem (by rw [List.length_append, List.length_replicate, h.shape.jobs]; omega) fun j hj _ => ?_
  have hjob : s.jobs[j] = s.job j := (List.getD_eq_getElem _ _ hj).symm
  rw [hjob, List.getElem_append]
  split
  · rw [liveJobs_getElem]
  · rw [List.getElem_replicate]
    exact h.above j (by omega)

theorem unionIds_eq_liveJobs (s : State) :
    unionIds s.jobs s.njobs.toNat = ((liveJobs s).map (·.id)).foldl (· ||| ·) 0 := by
  rw [unionIds, List.foldl_map]
  rfl

/-- Everything RMSVC writes. -/
theorem complete_cmdRmsvc_eq (s : State) :
    complete (cmdRmsvc s) = { s with
      jobs := (purged s).jobs, pat := (purged s).pat, njobs := (purged s).njobs
      services := unionIds (purged s).jobs (purged s).njobs.toNat
      result := 0, value := unionIds (purged s).jobs (purged s).njobs.toNat, host := s.host.tail } := by
  obtain ⟨pat, jobs, njobs, he⟩ := removeLoop_eq s.staging.id s.njobs.toNat 0 s
  have hpurged : purged s = { s with pat := pat, jobs := jobs, njobs := njobs } := he
  have hcmd : cmdRmsvc s = finish .ok (unionIds (purged s).jobs (purged s).njobs.toNat)
    { purged s with services := unionIds (purged s).jobs (purged s).njobs.toNat } := rfl
  rw [hcmd, hpurged]
  rfl

/-- Settles O18: the loop filters the Jobs, and keeps the unused entries cleared. -/
theorem rmsvcKeepsUnrequestedJobs : Obligations.RmsvcKeepsUnrequestedJobs := by
  intro s hshape habove
  have hzero : UnusedZero (purged s) := purged_keeps (fun _ _ h hi => h.removeJob hi) ⟨hshape, habove⟩
  have hlive := purged_liveJobs hshape
  have hservices := unionIds_eq_liveJobs (purged s)
  have hnjobs : (purged s).njobs = BitVec.ofNat 4 (liveJobs (purged s)).length := by
    rw [liveJobs_length hzero.shape, BitVec.ofNat_toNat, BitVec.setWidth_eq]
  have hfile := hzero.jobs_eq
  rw [hlive] at hnjobs hservices hfile
  refine ⟨complete (cmdRmsvc s), rfl, ?_, hservices, ?_⟩
  · rw [complete_cmdRmsvc_eq]
    exact hfile
  · rw [complete_cmdRmsvc_eq, hnjobs]
    rfl

/-- `remove_services` about to issue RMSVC: `A_ID` is written. -/
def removalPresented (requested : BitVec 32) (s : State) : State :=
  presented .rmsvc { s with staging := { s.staging with id := requested } }

theorem issue_rmsvc_issueWr {s : State} (hseq : s.seq = .idle) (requested : BitVec 32) :
    issue .rmsvc (issueWr 0x10 requested s) = complete (cmdRmsvc (removalPresented requested s)) := by
  rw [issueWr_stage hseq (a := .id) rfl requested]
  exact issue_eq hseq (decode_encode rfl) rfl

/-- Settles O58: the value returned is `SERVICES`, and the loop leaves unrequested Jobs only. -/
theorem removeServicesReturnsRest : Obligations.RemoveServicesReturnsRest := by
  intro requested s hseq hshape
  have hshape' : ShapeOk (removalPresented requested s) := ⟨hshape.jobs, hshape.njobs, hshape.pat, hshape.rows⟩
  have hidle : (complete (cmdRmsvc (removalPresented requested s))).seq = .idle :=
    (CommandFrame.cmdRmsvc _).seq.trans hseq
  rw [removeServices, issue_rmsvc_issueWr hseq, issueRd_eq hidle]
  exact ⟨rfl, fun j hj => unrequested_iff.mp (purged_job_unrequested hshape' hj)⟩

end Sys2Proof.Safety
end

section
/-! RMSVC's effect on PAT (spec/42_config.md rule R209), and on what a row refers to (spec/10_state.md rule R38). -/

namespace Sys2Proof.Safety

open Sys2Proof.Machine

/-! ## Slots under a removal -/

/-- How many of the Jobs below `m` are removed. -/
def removedBelow (p : Nat → Bool) (m : Nat) : Nat := (List.range m).countP p

theorem removedBelow_succ (p : Nat → Bool) (m : Nat) :
    removedBelow p (m + 1) = removedBelow p m + if p m then 1 else 0 := by
  simp [removedBelow, List.range_succ, List.countP_cons]

theorem removedBelow_le (p : Nat → Bool) (m : Nat) : removedBelow p m ≤ m := by
  simpa [removedBelow] using List.countP_le_length (p := p) (l := List.range m)

theorem removedBelow_eq_zero {p : Nat → Bool} {m : Nat} (h : ∀ k < m, p k = false) : removedBelow p m = 0 :=
  List.countP_eq_zero.mpr fun k hk => by simp [h k (List.mem_range.mp hk)]

/-- What the removal of the Jobs `p` does to one slot: a reference to a removed Job is dropped, another one counted down by
the removed Jobs below it. -/
def keepSlot (p : Nat → Bool) (v : Slot) : Option Slot :=
  if isJobSlot v then
    if p (v.toNat - 1) then none else some (v - BitVec.ofNat 8 (removedBelow p (v.toNat - 1)))
  else some v

theorem keepSlot_of_free (p : Nat → Bool) {v : Slot} (h : isJobSlot v = false) : keepSlot p v = some v := by
  simp [keepSlot, h]

theorem keepSlot_jobRef (p : Nat → Bool) {m : Nat} (hm : m < 127) :
    keepSlot p (jobRef m) = if p m then none else some (jobRef (m - removedBelow p m)) := by
  have hle := removedBelow_le p m
  have hsub : jobRef m - BitVec.ofNat 8 (removedBelow p m) = jobRef (m - removedBelow p m) := by
    apply BitVec.eq_of_toNat_eq
    rw [BitVec.toNat_sub, jobRef_toNat hm, jobRef_toNat (by omega), BitVec.toNat_ofNat]
    omega
  rw [keepSlot, if_pos (isJobSlot_jobRef hm), jobRef_toNat hm, Nat.add_sub_cancel, hsub]

/-- A Job slot is the reference to one Job. -/
theorem exists_jobRef {v : Slot} (h : isJobSlot v = true) : ∃ m < 127, v = jobRef m := by
  obtain ⟨hpos, hlt⟩ := isJobSlot_iff_toNat.mp h
  have hm : v.toNat - 1 < 127 := by omega
  refine ⟨v.toNat - 1, hm, BitVec.eq_of_toNat_eq ?_⟩
  rw [jobRef_toNat hm]
  omega

/-- A removal that removes nothing. -/
theorem keepSlot_of_none {p : Nat → Bool} (h : ∀ j, p j = false) (v : Slot) : keepSlot p v = some v := by
  by_cases hv : isJobSlot v = true
  · obtain ⟨m, hm, rfl⟩ := exists_jobRef hv
    rw [keepSlot_jobRef p hm, h m, removedBelow_eq_zero fun k _ => h k]
    rfl
  · exact keepSlot_of_free p (by simpa using hv)

theorem removedBelow_single (i m : Nat) : removedBelow (· == i) m = if i < m then 1 else 0 := List.count_range

/-- The removal of one Job, as `Compact` writes it. -/
theorem keepSlot_single {i : Nat} (hi : i < 127) (v : Slot) :
    keepSlot (· == i) v = if v != jobRef i then some (renumber (jobRef i) v) else none := by
  by_cases hv : isJobSlot v = true
  · obtain ⟨m, hm, rfl⟩ := exists_jobRef hv
    have href : jobRef m = jobRef i ↔ m = i := by rw [← BitVec.toNat_inj, jobRef_toNat hm, jobRef_toNat hi]; omega
    rw [keepSlot_jobRef _ hm]
    by_cases hmi : m = i
    · simp [hmi]
    · have hrenumber : renumber (jobRef i) (jobRef m) = jobRef (m - removedBelow (· == i) m) := by
        apply BitVec.eq_of_toNat_eq
        rw [renumber_toNat hi hv, jobRef_toNat hm, removedBelow_single, jobRef_toNat (by omega)]
        split <;> split <;> omega
      rw [if_neg (by simpa using hmi), if_pos (by simpa [href] using hmi), hrenumber]
  · have hfree : isJobSlot v = false := by simpa using hv
    have hne : v ≠ jobRef i := fun he => hv (he ▸ isJobSlot_jobRef hi)
    rw [keepSlot_of_free _ hfree, if_pos (bne_iff_ne.mpr hne), renumber_of_free hi hfree]

/-- Job `i` removed, then the Jobs `q` of the file that has closed up: together the Jobs `p`, none of them below `i`. -/
structure RemovesThen (i : Nat) (q p : Nat → Bool) : Prop where
  first : p i = true
  below : ∀ j < i, p j = false
  rest_below : ∀ j < i, q j = false
  rest : ∀ j, i ≤ j → q j = p (j + 1)

theorem RemovesThen.removedBelow_succ_add {i : Nat} {q p : Nat → Bool} (h : RemovesThen i q p) :
    ∀ k, removedBelow p (i + k + 1) = removedBelow q (i + k) + 1
  | 0 => by
    simp only [Nat.add_zero, removedBelow_succ, removedBelow_eq_zero h.below, removedBelow_eq_zero h.rest_below,
      if_pos h.first]
  | k + 1 => by
    rw [removedBelow_succ, ← Nat.add_assoc, h.removedBelow_succ_add k, removedBelow_succ, h.rest _ (by omega)]
    omega

/-- Removal after removal (rule R209), slot by slot. -/
theorem RemovesThen.keepSlot_bind {i : Nat} {q p : Nat → Bool} (h : RemovesThen i q p) (v : Slot) :
    (keepSlot (· == i) v).bind (keepSlot q) = keepSlot p v := by
  by_cases hv : isJobSlot v = true
  · obtain ⟨m, hm, rfl⟩ := exists_jobRef hv
    rw [keepSlot_jobRef _ hm, keepSlot_jobRef _ hm, removedBelow_single]
    rcases lt_trichotomy m i with hlt | rfl | hgt
    · have hbelow : removedBelow p m = 0 := removedBelow_eq_zero fun k hk => h.below k (hk.trans hlt)
      have hrest : removedBelow q m = 0 := removedBelow_eq_zero fun k hk => h.rest_below k (hk.trans hlt)
      rw [if_neg (by simpa using hlt.ne), if_neg (by omega), h.below m hlt, hbelow, Option.bind_some, Nat.sub_zero,
        keepSlot_jobRef q hm, h.rest_below m hlt, hrest, Nat.sub_zero]
    · rw [if_pos (by simp), if_pos h.first]
      rfl
    · obtain ⟨k, rfl⟩ := Nat.exists_eq_add_of_lt hgt
      rw [if_neg (by simpa using hgt.ne'), if_pos hgt, Option.bind_some, keepSlot_jobRef q (by omega), h.removedBelow_succ_add,
        Nat.add_sub_cancel, h.rest _ (by omega), Nat.add_sub_add_right]
  · have hfree : isJobSlot v = false := by simpa using hv
    rw [keepSlot_of_free _ hfree, keepSlot_of_free _ hfree, Option.bind_some, keepSlot_of_free _ hfree]

/-! ## Rows under a removal -/

/-- A row padded with Blanks to 8 slots. -/
def padRow (row : Row) : Row := row ++ List.replicate (8 - row.length) 0

theorem padRow_of_length {row : Row} (h : row.length = 8) : padRow row = row := by
  simp [padRow, h]

theorem padRow_append_blanks {row : Row} {k : Nat} (h : row.length + k ≤ 8) :
    padRow (row ++ List.replicate k 0) = padRow row := by
  rw [padRow, padRow, List.append_assoc, List.length_append, List.length_replicate, List.replicate_append_replicate]
  congr 2
  omega

/-- Blanks stay, so the padding moves behind a later removal. -/
theorem padRow_filterMap_padRow (p : Nat → Bool) {row : Row} (h : row.length ≤ 8) :
    padRow ((padRow row).filterMap (keepSlot p)) = padRow (row.filterMap (keepSlot p)) := by
  have hblanks : (List.replicate (8 - row.length) (0 : Slot)).filterMap (keepSlot p) =
      List.replicate (8 - row.length) 0 := by
    rw [List.filterMap_replicate, keepSlot_of_free p (by decide)]
  have hle := List.length_filterMap_le (keepSlot p) row
  have hsplit : (padRow row).filterMap (keepSlot p) = row.filterMap (keepSlot p) ++ List.replicate (8 - row.length) 0 := by
    rw [padRow, List.filterMap_append, hblanks]
  rw [hsplit]
  exact padRow_append_blanks (by omega)

theorem filterMap_ite_eq_map_filter {α β : Type} (p : α → Bool) (f : α → β) (l : List α) :
    l.filterMap (fun x => if p x then some (f x) else none) = (l.filter p).map f := by
  rw [← List.filterMap_filter (p := p) (f := fun x => some (f x))]
  exact congrFun List.filterMap_eq_map _

theorem filterMap_keepSlot_single {i : Nat} (hi : i < 127) (row : Row) :
    row.filterMap (keepSlot (· == i)) = (row.filter fun v => v != jobRef i).map (renumber (jobRef i)) := by
  rw [← filterMap_ite_eq_map_filter]
  exact List.filterMap_congr fun v _ => keepSlot_single hi v

theorem compactRow_eq_padRow {i : Nat} (hi : i < 127) {row : Row} (h8 : row.length = 8) :
    compactRow (jobRef i) row = padRow (row.filterMap (keepSlot (· == i))) := by
  have hle := List.length_filterMap_le (keepSlot (· == i)) row
  rw [filterMap_keepSlot_single hi] at hle ⊢
  rw [compactRow_eq, List.take_append, List.take_of_length_le (by omega), List.take_replicate, Nat.min_eq_left (by omega),
    padRow]

theorem remainingSlots_eq (s : State) (row : Row) :
    remainingSlots s row = row.filterMap (keepSlot (requestedJob s)) := by
  rw [remainingSlots, ← filterMap_ite_eq_map_filter]
  refine List.filterMap_congr fun v _ => ?_
  rw [keepSlot, removedBelow]
  cases isJobSlot v <;> cases requestedJob s (v.toNat - 1) <;> rfl

/-! ## PAT after RMSVC -/

/-- What holds of a row after one removal. -/
theorem removeJob_row {i r : Nat} {s : State} (hr : r < s.pat.length) :
    (removeJob i s).row r = compactRow (jobRef i) (s.row r) := by
  simp [State.row, hr]

/-- The Jobs from `i` on that the loop still removes. -/
def requestedFrom (s : State) (i j : Nat) : Bool := decide (i ≤ j) && requestedJob s j

theorem requestedJob_iff {s : State} {j : Nat} (hj : j < s.njobs.toNat) :
    requestedJob s j = true ↔ (s.job j).id &&& s.staging.id ≠ 0 := by
  simp [requestedJob, hj]

theorem requestedFrom_removeJob {s : State} (h : ShapeOk s) {i : Nat} (hi : i < s.njobs.toNat)
    (hid : (s.job i).id &&& s.staging.id ≠ 0) :
    RemovesThen i (requestedFrom (removeJob i s) i) (requestedFrom s i) where
  first := by simp [requestedFrom, (requestedJob_iff hi).mpr hid]
  below j hj := by simp [requestedFrom, hj]
  rest_below j hj := by simp [requestedFrom, hj]
  rest j hj := by
    have hcount := removeJob_njobs_toNat hi
    simp only [requestedFrom, requestedJob, hcount, removeJob_staging, removeJob_job h.jobs]
    by_cases hlt : j + 1 < s.njobs.toNat
    · rw [if_neg (by omega), if_pos hlt]
      simp [hj, hlt, Nat.le_succ_of_le hj, show j < s.njobs.toNat - 1 by omega]
    · simp [hlt, show ¬ j < s.njobs.toNat - 1 by omega]

theorem removeLoop_row : ∀ {left i r : Nat} {s : State}, ShapeOk s → i + left = s.njobs.toNat → r < s.pat.length →
    (removeLoop s.staging.id left i s).row r = padRow ((s.row r).filterMap (keepSlot (requestedFrom s i)))
  | 0, i, r, s, h, hi, _ => by
    have hnone : ∀ j, requestedFrom s i j = false := fun j => by
      simp only [requestedFrom, requestedJob, Bool.and_eq_false_iff, decide_eq_false_iff_not]
      omega
    rw [removeLoop, List.filterMap_congr fun v _ => keepSlot_of_none hnone v, List.filterMap_some,
      padRow_of_length (h.row_length r)]
  | left + 1, i, r, s, h, hi, hr => by
    have hlt : i < s.njobs.toNat := by omega
    have hi127 : i < 127 := by
      have := h.njobs
      omega
    rw [removeLoop]
    split
    · next hid =>
      have hloop := removeLoop_row (r := r) (s := removeJob i s) (left := left) (i := i) (h.removeJob hlt)
        (by rw [removeJob_njobs_toNat hlt]; omega) (by simpa using hr)
      rw [removeJob_staging] at hloop
      rw [hloop, removeJob_row hr, compactRow_eq_padRow hi127 (h.row_length r), padRow_filterMap_padRow,
        List.filterMap_filterMap]
      · simp only [(requestedFrom_removeJob h hlt hid).keepSlot_bind]
      · exact (List.length_filterMap_le _ _).trans (h.row_length r).le
    · next hid =>
      have hkeep : requestedFrom s (i + 1) = requestedFrom s i := funext fun j => by
        rcases Nat.lt_trichotomy j i with hj | rfl | hj
        · simp [requestedFrom, show ¬ i + 1 ≤ j by omega, show ¬ i ≤ j by omega]
        · have hno : requestedJob s j = false := Bool.eq_false_iff.mpr fun hreq => hid ((requestedJob_iff hlt).mp hreq)
          simp [requestedFrom, hno]
        · simp [requestedFrom, hj.le, Nat.succ_le_of_lt hj]
      rw [removeLoop_row h (by omega) hr, hkeep]

/-- A row after RMSVC. -/
theorem purged_row {s : State} (h : ShapeOk s) {r : Nat} (hr : r < s.pat.length) :
    (purged s).row r = padRow (remainingSlots s (s.row r)) := by
  have hall : requestedFrom s 0 = requestedJob s := funext fun j => by simp [requestedFrom]
  rw [purged, removeLoop_row h (Nat.zero_add _) hr, hall, remainingSlots_eq]

theorem purged_pat_length (s : State) : (purged s).pat.length = s.pat.length :=
  purged_keeps (P := fun t => t.pat.length = s.pat.length)
    (fun i t ht _ => by rw [removeJob_pat, List.length_map, ht]) rfl

/-- With no requested Job the loop removes nothing. -/
theorem removeLoop_eq_self {requested : BitVec 32} : ∀ {left i : Nat} {s : State},
    (∀ j < i + left, (s.job j).id &&& requested = 0) → removeLoop requested left i s = s
  | 0, _, _, _ => rfl
  | left + 1, i, s, h => by
    rw [removeLoop, if_neg (not_not.mpr (h i (by omega)))]
    exact removeLoop_eq_self fun j hj => h j (by omega)

/-- Settles O19: removal after removal is one removal of all requested Jobs; of a single one, `Compact`. -/
theorem rmsvcCompactsRows : Obligations.RmsvcCompactsRows := by
  have hlength : ∀ s : State, (complete (cmdRmsvc s)).pat.length = s.pat.length := purged_pat_length
  have hrow : ∀ {s : State}, ShapeOk s → ∀ r < s.params.maxLines,
      (complete (cmdRmsvc s)).row r = padRow (remainingSlots s (s.row r)) := fun h r hr =>
    purged_row h (h.pat.symm ▸ hr)
  refine ⟨fun s h => ⟨complete (cmdRmsvc s), rfl, hlength s, hrow h, fun hnone => ?_⟩,
    fun s i h hi honly => ⟨complete (cmdRmsvc s), rfl, hlength s, fun r hr => ?_⟩⟩
  · have hself : purged s = s := removeLoop_eq_self fun j hj => hnone j (by omega)
    change (purged s).pat = s.pat
    rw [hself]
  · have hsingle : requestedJob s = (· == i) := funext fun j => Bool.eq_iff_iff.mpr <| by
      by_cases hj : j < s.njobs.toNat
      · rw [requestedJob_iff hj, honly j hj, beq_iff_eq]
      · simp only [requestedJob, hj, decide_false, Bool.false_and, Bool.false_eq_true, beq_iff_eq, false_iff]
        omega
    have h127 : i < 127 := by
      have := h.njobs
      omega
    have hvalue : slotValue (jobRef i) = (i : Int) + 1 := by
      rw [slotValue_of_isJobSlot (isJobSlot_jobRef h127), jobRef_toNat h127]
      rfl
    have hrenumber : renumber (jobRef i) = fun v => if (i : Int) + 1 < v.toInt then v - 1 else v := by
      rw [← hvalue]
      rfl
    have hremaining := hrow h r hr
    rw [remainingSlots_eq, hsingle, filterMap_keepSlot_single h127, hrenumber] at hremaining
    exact hremaining

/-! ## What a row refers to -/

theorem RowOk.refs_of_mem {n : Nat} {row : Row} (h : RowOk n row) (h8 : row.length = 8) {v : Slot} (hv : v ∈ row)
    (hjob : isJobSlot v = true) : v.toNat ≤ n := by
  obtain ⟨i, hi, rfl⟩ := List.mem_iff_getElem.mp hv
  have hslot := slotAt_eq_getElem hi
  rw [← hslot] at hjob ⊢
  exact h.refs i (by omega) hjob

theorem PatOk.removeJob {s : State} (h : PatOk s) {i : Nat} (hi : i < s.njobs.toNat) : PatOk (removeJob i s) where
  shape := h.shape.removeJob hi
  rows row hrow := by
    have hle := h.shape.njobs
    obtain ⟨old, hold, rfl⟩ := List.mem_map.mp hrow
    rw [removeJob_njobs_toNat hi]
    exact (h.rows old hold).compactRow (h.shape.rows old hold) hi (by omega)

/-- The Jobs a row refers to, slot by slot. -/
theorem referenced_eq_filterMap (s : State) (r : Nat) :
    referenced s r = (s.row r).filterMap fun v => if isJobSlot v then some (s.job (v.toNat - 1)) else none :=
  (filterMap_ite_eq_map_filter _ _ _).symm

/-- A renumbered reference refers to the Job it referred to. -/
theorem removeJob_job_renumber {s : State} (h : ShapeOk s) {i m : Nat} (hm : m < s.njobs.toNat) (hmi : m ≠ i) :
    (removeJob i s).job (m - removedBelow (· == i) m) = s.job m := by
  rw [removeJob_job h.jobs, removedBelow_single]
  split
  · next hlt => rw [if_neg (by omega), if_pos (by omega), Nat.sub_add_cancel (by omega)]
  · rw [if_pos (by omega), Nat.sub_zero]

/-- One removal: every row refers to the Jobs it referred to, less the removed one. -/
theorem referenced_removeJob {s : State} (h : PatOk s) {i r : Nat} (hi : i < s.njobs.toNat) (hr : r < s.pat.length) :
    referenced (removeJob i s) r = (s.row r).filterMap fun v =>
      if isJobSlot v && v != jobRef i then some (s.job (v.toNat - 1)) else none := by
  have hle := h.shape.njobs
  have hi127 : i < 127 := by omega
  have hblanks : ∀ k, (List.replicate k (0 : Slot)).filterMap (fun v => if isJobSlot v then
      some ((removeJob i s).job (v.toNat - 1)) else none) = [] := fun k => by
    rw [List.filterMap_replicate, if_neg (by decide)]
  rw [referenced_eq_filterMap, removeJob_row hr, compactRow_eq_padRow hi127 (h.shape.row_length r), padRow,
    List.filterMap_append, hblanks, List.append_nil, List.filterMap_filterMap]
  refine List.filterMap_congr fun v hv => ?_
  by_cases hjob : isJobSlot v = true
  · have hn := (h.row_ok r).refs_of_mem (h.shape.row_length r) hv hjob
    obtain ⟨m, hm, rfl⟩ := exists_jobRef hjob
    rw [jobRef_toNat hm] at hn
    have href : jobRef m = jobRef i ↔ m = i := by rw [← BitVec.toNat_inj, jobRef_toNat hm, jobRef_toNat hi127]; omega
    rw [keepSlot_jobRef _ hm, jobRef_toNat hm, hjob]
    by_cases hmi : m = i
    · simp [hmi]
    · have hless : m - removedBelow (· == i) m < 127 := by omega
      simp [hmi, href, isJobSlot_jobRef hless, jobRef_toNat hless, removeJob_job_renumber h.shape hn hmi]
  · have hfree : isJobSlot v = false := by simpa using hjob
    simp [keepSlot_of_free _ hfree, hfree]

/-- The loop from Job `i` on, when no Job in front is requested. -/
theorem referenced_removeLoop {requested : BitVec 32} {r : Nat} : ∀ {left i : Nat} {s : State}, PatOk s →
    i + left = s.njobs.toNat → r < s.pat.length → (∀ j < i, unrequested requested (s.job j) = true) →
    referenced (removeLoop requested left i s) r = (referenced s r).filter (unrequested requested)
  | 0, i, s, h, hi, _, hfront => by
    refine (List.filter_eq_self.mpr fun job hjob => ?_).symm
    obtain ⟨v, hv, rfl⟩ := List.mem_map.mp hjob
    obtain ⟨hmem, hslot⟩ := List.mem_filter.mp hv
    have hle := (h.row_ok r).refs_of_mem (h.shape.row_length r) hmem hslot
    have hpos := (isJobSlot_iff_toNat.mp hslot).1
    exact hfront _ (by omega)
  | left + 1, i, s, h, hi, hr, hfront => by
    have hlt : i < s.njobs.toNat := by omega
    rw [removeLoop]
    split
    · next hid =>
      have hfront' : ∀ j < i, unrequested requested ((removeJob i s).job j) = true := fun j hj => by
        rw [removeJob_job h.shape.jobs, if_pos hj]
        exact hfront j hj
      rw [referenced_removeLoop (h.removeJob hlt) (by rw [removeJob_njobs_toNat hlt]; omega) (by simpa using hr) hfront',
        referenced_removeJob h hlt hr, referenced_eq_filterMap, List.filter_filterMap, List.filter_filterMap]
      refine List.filterMap_congr fun v _ => ?_
      by_cases hv : v = jobRef i
      · have hi127 : i < 127 := by
          have := h.shape.njobs
          omega
        have hno : unrequested requested (s.job i) = false := Bool.eq_false_iff.mpr (unrequested_iff.not.mpr hid)
        simp [hv, isJobSlot_jobRef hi127, jobRef_toNat hi127, Option.filter, hno]
      · simp [hv]
    · next hid =>
      refine referenced_removeLoop h (by omega) hr fun j hj => ?_
      rcases Nat.lt_succ_iff_lt_or_eq.mp hj with hj | rfl
      · exact hfront j hj
      · exact unrequested_iff.mpr (not_not.mp hid)

/-- Settles O20: each removal keeps what every row refers to, less the removed Job. -/
theorem rmsvcReferencesFollowJobs : Obligations.RmsvcReferencesFollowJobs := by
  intro s h
  refine ⟨complete (cmdRmsvc s), rfl, fun r hr => ?_⟩
  have hloop : referenced (purged s) r = (referenced s r).filter (unrequested s.staging.id) :=
    referenced_removeLoop h (Nat.zero_add _) (h.shape.pat.symm ▸ hr) (by omega)
  exact hloop

end Sys2Proof.Safety
end

section
/-! JOBADD: its failures (spec/42_config.md rules R201 to R203, spec/60_exceptions.md rules R276, R281), and the slots it
reserves (rule R205). -/

namespace Sys2Proof.Safety

open Sys2Proof.Machine

variable {s : State} {j r : Nat} {row : Row}

/-! ## The failures -/

theorem cmdJobadd_of_refused (h : ¬ JobaddConditions s) : cmdJobadd s = raise .cfgError s := by
  have hno : jobaddAccepted s.geom s.staging = false := Bool.eq_false_iff.mpr (jobaddAccepted_iff.not.mpr h)
  exact if_pos (by rw [hno]; rfl)

/-- A JOBADD whose operands are accepted goes on to the size of the frame. -/
theorem cmdJobadd_of_conditions (h : JobaddConditions s) : cmdJobadd s =
    if s.params.maxLines < frameRows s then raise .allocError s
    else match sharedJob s with
      | some j => jobaddAt j s
      | none => if s.njobs = 8 then raise .rejCapacity s else jobaddAt s.njobs.toNat s := by
  have hyes : (!jobaddAccepted s.geom s.staging) = false := by rw [jobaddAccepted_iff.mpr h]; rfl
  unfold cmdJobadd
  rw [if_neg (by rw [hyes]; exact Bool.false_ne_true)]
  rfl

theorem cmdJobadd_of_full (h : JobaddConditions s) (hframe : frameRows s ≤ s.params.maxLines)
    (hnone : ∀ i, ¬ Shares s i) (h8 : s.njobs = 8) : cmdJobadd s = raise .rejCapacity s := by
  rw [cmdJobadd_of_conditions h, if_neg (Nat.not_lt.mpr hframe), sharedJob_eq_none_iff.mpr hnone]
  exact if_pos h8

/-- A JOBADD that selects a Job tests the rows for it. -/
theorem cmdJobadd_eq_jobaddAt (h : JobaddConditions s) (hframe : frameRows s ≤ s.params.maxLines) (hsel : Selected s j) :
    cmdJobadd s = jobaddAt j s := by
  rw [cmdJobadd_of_conditions h, if_neg (Nat.not_lt.mpr hframe)]
  rcases selected_iff.mp hsel with hs | ⟨hs, h8, rfl⟩ <;> rw [hs]
  exact if_neg h8

theorem jobaddAt_of_noRoom (h : ShapeOk s) (hfull : ∃ r, named s r ∧ roomOn s j r ≤ 1) :
    jobaddAt j s = raise .rejNoslot s := by
  obtain ⟨r, hr, hroom⟩ := hfull
  refine if_neg fun hyes => ?_
  have := (rowsHaveRoom_iff h).mp hyes r hr
  omega

theorem exec_jobadd_of_raise {c : ResultCode} (h : cmdJobadd s = raise c s) :
    exec .jobadd s = .next { s with result := c.number, host := s.host.tail } := by
  rw [exec, execJobadd, h]
  rfl

/-- Settles O15: the tests in their order, each answered by its code. -/
theorem jobaddFailures : Obligations.JobaddFailures := by
  intro s hshape
  refine ⟨fun hno => ?_, fun h hlt => ?_, fun h hframe hnone h8 => ?_, fun h hframe j hsel hfull => ?_⟩
  · exact exec_jobadd_of_raise (cmdJobadd_of_refused hno)
  · exact exec_jobadd_of_raise ((cmdJobadd_of_conditions h).trans (if_pos hlt))
  · exact exec_jobadd_of_raise (cmdJobadd_of_full h hframe hnone h8)
  · exact exec_jobadd_of_raise ((cmdJobadd_eq_jobaddAt h hframe hsel).trans (jobaddAt_of_noRoom hshape hfull))

/-! ## The slots of one row (rule R205) -/

theorem slotAt_set_self {i : Nat} (h : i < row.length) (v : Slot) : slotAt (row.set i v) i = v := by
  rw [slotAt, List.getD_eq_getElem _ _ (by simpa using h), List.getElem_set_self]

theorem row_ext {row row' : Row} (h8 : row.length = 8) (h8' : row'.length = 8)
    (h : ∀ i < 8, slotAt row i = slotAt row' i) : row = row' :=
  List.ext_getElem (h8.trans h8'.symm) fun i hi hi' => by
    rw [← slotAt_eq_getElem hi, ← slotAt_eq_getElem hi', h i (by omega)]

/-- The dwell window: slot 7, unless it holds a Job. -/
theorem slotAt_startDwell (h8 : row.length = 8) (i : Nat) : slotAt (startDwell row) i =
    if i = 7 ∧ isJobSlot (slotAt row 7) = false then dwellStart else slotAt row i := by
  rw [startDwell]
  by_cases h7 : isJobSlot (slotAt row 7) = true
  · rw [if_pos h7, if_neg (by simp [h7])]
  · have hfree : isJobSlot (slotAt row 7) = false := by simpa using h7
    rw [if_neg h7]
    by_cases hi7 : i = 7
    · rw [if_pos ⟨hi7, hfree⟩, hi7, slotAt_set_self (by omega)]
    · rw [if_neg (by simp [hi7]), slotAt_set_ne (Ne.symm hi7)]

theorem startDwell_startDwell (h8 : row.length = 8) : startDwell (startDwell row) = startDwell row := by
  have hlen : (startDwell row).length = 8 := by simpa using h8
  refine row_ext (by simpa using hlen) hlen fun i hi => ?_
  rw [slotAt_startDwell hlen]
  split
  · next h =>
    obtain ⟨rfl, h7⟩ := h
    rw [slotAt_startDwell h8] at h7 ⊢
    split at h7
    · next hfree => rw [if_pos hfree]
    · next hnot => exact absurd ⟨rfl, h7⟩ hnot
  · rfl

theorem mem_startDwell (h8 : row.length = 8) {v : Slot} (hjob : isJobSlot v = true) (h : v ∈ row) : v ∈ startDwell row := by
  obtain ⟨i, hi, rfl⟩ := List.mem_iff_getElem.mp h
  have hslot : slotAt (startDwell row) i = row[i] := by
    rw [slotAt_startDwell h8, slotAt_eq_getElem hi, if_neg]
    rintro ⟨rfl, h7⟩
    rw [slotAt_eq_getElem hi, hjob] at h7
    cases h7
  have hi' : i < (startDwell row).length := by simpa using hi
  rw [← hslot, slotAt_eq_getElem hi']
  exact List.getElem_mem hi'

/-- A row that holds the Job already keeps its slots. -/
theorem reserveRow_of_mem (h : jobRef j ∈ row) : reserveRow j row = startDwell row := by
  obtain ⟨i, hi, hslot, hv⟩ := reservedSlot_of_mem h
  simp only [Machine.reserveRow, hslot]
  rw [← hv, List.set_getElem_self]

/-- A row that does not hold the Job takes it in its least non-Job slot. -/
theorem reserveRow_of_notMem (h : jobRef j ∉ row) {p : Nat} (hp : p < row.length) (hfree : isJobSlot (slotAt row p) = false)
    (hleast : ∀ q < p, isJobSlot (slotAt row q) = true) :
    reserveRow j row = startDwell (row.set p (jobRef j)) := by
  have hslot : reservedSlot j row = some p := by
    rw [reservedSlot_of_notMem h, List.findIdx?_eq_some_iff_getElem]
    refine ⟨hp, ?_, fun q hq => ?_⟩
    · rw [← slotAt_eq_getElem hp, hfree]
      rfl
    · rw [← slotAt_eq_getElem (hq.trans hp), hleast q hq]
      exact Bool.false_ne_true
  simp only [Machine.reserveRow, hslot]

/-- The slots after a reservation in slot `p`. -/
theorem slotAt_startDwell_set (h8 : row.length = 8) {p : Nat} (hp : p < row.length) (hj : j < 127) (i : Nat) :
    slotAt (startDwell (row.set p (jobRef j))) i =
      if i = p then jobRef j
      else if i = 7 ∧ isJobSlot (slotAt row 7) = false then dwellStart else slotAt row i := by
  rw [slotAt_startDwell (by simpa using h8)]
  by_cases hip : i = p
  · subst hip
    have hself := slotAt_set_self hp (jobRef j)
    rw [if_pos rfl, if_neg, hself]
    rintro ⟨rfl, h7⟩
    rw [hself, isJobSlot_jobRef hj] at h7
    cases h7
  · rw [if_neg hip, slotAt_set_ne (Ne.symm hip)]
    by_cases hi7 : i = 7
    · subst hi7
      rw [slotAt_set_ne (Ne.symm hip)]
    · rw [if_neg (by simp [hi7]), if_neg (by simp [hi7])]

/-- After a reservation with room the row holds the Job, and its dwell window has started. -/
theorem exists_reserveRow_eq (hroom : 0 < freeSlots j row) :
    ∃ row' : Row, row'.length = row.length ∧ jobRef j ∈ row' ∧ reserveRow j row = startDwell row' := by
  cases hslot : reservedSlot j row with
  | some i =>
    obtain ⟨hi, -⟩ := reservedSlot_spec hslot
    exact ⟨row.set i (jobRef j), List.length_set, List.mem_set hi _, by simp only [Machine.reserveRow, hslot]⟩
  | none =>
    obtain ⟨v, hv, hfree⟩ := List.countP_pos_iff.mp hroom
    have hno : jobRef j ∉ row := fun hmem => by
      obtain ⟨i, -, hsome, -⟩ := reservedSlot_of_mem hmem
      rw [hslot] at hsome
      cases hsome
    rw [reservedSlot_of_notMem hno, List.findIdx?_eq_none_iff] at hslot
    have hjob : isJobSlot v = true := by simpa using hslot v hv
    have he : v = jobRef j := by simpa [hjob] using hfree
    exact absurd (he ▸ hv) hno

theorem reserveRow_reserveRow (h8 : row.length = 8) (hj : j < 127) (hroom : 0 < freeSlots j row) :
    reserveRow j (reserveRow j row) = reserveRow j row := by
  obtain ⟨row', hlen, hmem, he⟩ := exists_reserveRow_eq hroom
  have h8' : row'.length = 8 := hlen.trans h8
  rw [he, reserveRow_of_mem (mem_startDwell h8' (isJobSlot_jobRef hj) hmem), startDwell_startDwell h8']

/-! ## The slots of PAT -/

theorem reserveRows_row_other : ∀ {rows : List Nat} {s : State}, r ∉ rows → (reserveRows j rows s).row r = s.row r
  | [], _, _ => rfl
  | k :: rows, s, hr => by
    have hk : k ≠ r := fun he => hr (he ▸ List.mem_cons_self)
    rw [Machine.reserveRows, reserveRows_row_other fun hmem => hr (List.mem_cons_of_mem k hmem), setRow_row_other _ _ _ _ hk]

/-- The commit on a named row: reserved once, however often the two ranges name it. -/
theorem reserveRows_row_same : ∀ {rows : List Nat} {s : State}, r ∈ rows → r < s.pat.length →
    reserveRow j (reserveRow j (s.row r)) = reserveRow j (s.row r) →
    (reserveRows j rows s).row r = reserveRow j (s.row r)
  | k :: rows, s, hr, hlt, hidem => by
    have hlt' : r < (setRow k (reserveRow j (s.row k)) s).pat.length := by simpa using hlt
    rw [Machine.reserveRows]
    by_cases hk : r = k
    · subst hk
      have hrow := setRow_row_same s r (reserveRow j (s.row r)) hlt
      by_cases hmem : r ∈ rows
      · rw [reserveRows_row_same hmem hlt' (by rw [hrow, hidem, hidem]), hrow, hidem]
      · rw [reserveRows_row_other hmem, hrow]
    · have hrow := setRow_row_other s k r (reserveRow j (s.row k)) (Ne.symm hk)
      have hmem : r ∈ rows := (List.mem_cons.mp hr).resolve_left hk
      rw [reserveRows_row_same hmem hlt' (by rw [hrow, hidem]), hrow]

/-- Settles O17: the commit of each named row, slot by slot. -/
theorem jobaddReservesSlots : Obligations.JobaddReservesSlots := by
  intro s j hshape hcond hframe hsel hroom
  have hj : j < 127 := (hshape.index_lt (selected_index hsel)).trans (by omega)
  have hpat : (complete (cmdJobadd s)).pat = (reserveRows j (stagedRows s.staging) s).pat := by
    rw [cmdJobadd_of_selected hshape hcond hframe hsel hroom]
    rfl
  have hlength : (reserveRows j (stagedRows s.staging) s).pat.length = s.pat.length := by
    obtain ⟨pat, hlen, he⟩ := reserveRows_eq j (stagedRows s.staging) s
    rw [he]
    exact hlen
  have hrow : ∀ r, (complete (cmdJobadd s)).row r = (reserveRows j (stagedRows s.staging) s).row r := fun r => by
    rw [State.row, hpat, State.row]
  refine ⟨complete (cmdJobadd s), rfl, by rw [hpat, hlength], fun r hr => ?_⟩
  have h8 := hshape.row_length r
  have hlt : r < s.pat.length := hshape.pat.symm ▸ hr
  have hnamed : named s r → (complete (cmdJobadd s)).row r = reserveRow j (s.row r) := fun hn => by
    have hfree := hroom r hn
    rw [← freeSlots_eq_roomOn hshape] at hfree
    rw [hrow, reserveRows_row_same (mem_stagedRows_iff.mpr hn) hlt (reserveRow_reserveRow h8 hj (by omega))]
  refine ⟨fun hn => ?other, fun hn hhas i hi => ?existing, fun hn hno p hp hfree hleast i hi => ?new⟩
  case other =>
    rw [hrow, reserveRows_row_other (mem_stagedRows_iff.not.mpr hn)]
  case existing =>
    obtain ⟨k, hk, hv⟩ := hhas
    have hmem : jobRef j ∈ s.row r := by
      rw [jobRef, ← hv, slotAt_eq_getElem (by omega)]
      exact List.getElem_mem _
    rw [hnamed hn, reserveRow_of_mem hmem, slotAt_startDwell h8]
    rfl
  case new =>
    have hnotMem : jobRef j ∉ s.row r := fun hmem => by
      obtain ⟨k, hk, hv⟩ := List.mem_iff_getElem.mp hmem
      exact hno k (by omega) ((slotAt_eq_getElem hk).trans hv)
    rw [hnamed hn, reserveRow_of_notMem hnotMem (by omega) hfree hleast, slotAt_startDwell_set h8 (by omega) hj]
    rfl

end Sys2Proof.Safety
end

section
/-! PARAMS (spec/42_config.md rules R216, R217): the geometry writes it issues, and what it accumulates over the catalogue. -/

namespace Sys2Proof.Machine

open Sys2Proof.Safety

/-! ## The geometry writes -/

theorem issueWr_geom {s : State} (hseq : s.seq = .idle) (h0 : s.njobs = 0) {reg : BitVec 7} {g : GeomReg}
    (h : regName reg = .geom g) (data : BitVec 32) :
    issueWr reg data s = { s with geom := writeGeom s.geom data g } := by
  have hcmd : reg ≠ cmdNumber := by
    rintro rfl
    cases h
  exact issue_eq hseq (decode_encode_wr hcmd data) (exec_wr_geom (s := presented (.wr reg data) s) h0 h data)

/-- The geometry that PARAMS writes for what it has accumulated. -/
def paramsGeometry (hp : Config.HostParams) (acc : ParamsAcc) : Geometry :=
  { pixfmt := 0x01
    rate := BitVec.ofNat 32 hp.refRate
    bpl := BitVec.ofNat 32 (acc.stop.getD 0 - acc.off.getD 0)
    offset := BitVec.ofNat 32 (acc.off.getD 0)
    start0 := BitVec.ofNat 32 (acc.lo0.getD 0)
    start1 := BitVec.ofNat 32 (acc.lo1.getD 0)
    count0 := BitVec.ofNat 32 (fieldCount acc.lo0 acc.hi0)
    count1 := BitVec.ofNat 32 (fieldCount acc.lo1 acc.hi1)
    flags := 0x2
    scan := BitVec.ofNat 10 acc.scan }

theorem issueWrs_paramsWrites {s : State} (hseq : s.seq = .idle) (h0 : s.njobs = 0) (hp : Config.HostParams)
    (acc : ParamsAcc) : issueWrs (paramsWrites hp acc) s = { s with geom := paramsGeometry hp acc } := by
  have hwrite : ∀ (g : GeomReg) (reg : BitVec 7) (data : BitVec 32) (rest : List (BitVec 7 × BitVec 32)) (old : Geometry),
      regName reg = .geom g → issueWrs ((reg, data) :: rest) { s with geom := old } =
        issueWrs rest { s with geom := writeGeom old data g } := fun g reg data rest old h => by
    rw [issueWrs, issueWr_geom (s := { s with geom := old }) hseq h0 h]
  have hscan : (BitVec.ofNat 32 acc.scan).setWidth 10 = BitVec.ofNat 10 acc.scan :=
    BitVec.setWidth_ofNat_of_le (by omega) _
  change issueWrs _ { s with geom := s.geom } = _
  rw [paramsWrites, hwrite .pixfmt _ _ _ _ rfl, hwrite .rate _ _ _ _ rfl, hwrite .scan _ _ _ _ rfl,
    hwrite .offset _ _ _ _ rfl, hwrite .bpl _ _ _ _ rfl, hwrite .start0 _ _ _ _ rfl, hwrite .count0 _ _ _ _ rfl,
    hwrite .start1 _ _ _ _ rfl, hwrite .count1 _ _ _ _ rfl, hwrite .flags _ _ _ _ rfl, paramsGeometry, ← hscan]
  rfl

/-! ## The standard -/

/-- One more requested entry decides the standard only where nothing has. -/
theorem standardOf_concat (asked : List Config.ServiceEntry) (e : Config.ServiceEntry) (scanHint : Nat) :
    standardOf (asked ++ [e]) scanHint =
      if standardOf asked scanHint = 0 then (if e.scan525 then 525 else 625) else standardOf asked scanHint := by
  unfold standardOf
  by_cases hhint : scanHint = 0
  · rw [if_pos hhint, if_pos hhint]
    cases asked with
    | nil => rfl
    | cons first rest =>
      refine (if_neg ?_).symm
      change (if first.scan525 then 525 else 625) ≠ 0
      split <;> omega
  · rw [if_neg hhint, if_neg hhint, if_neg hhint]

theorem keptEntries_concat (asked : List Config.ServiceEntry) (e : Config.ServiceEntry) (scan : Nat) :
    keptEntries (asked ++ [e]) scan = keptEntries asked scan ++ if entryHasScan e scan then [e] else [] := by
  rw [keptEntries, List.filter_append]
  split
  · next h => exact congrArg (keptEntries asked scan ++ ·) (List.filter_cons_of_pos h)
  · next h => exact congrArg (keptEntries asked scan ++ ·) (List.filter_cons_of_neg h)

theorem keptEntries_standardOf_concat (asked : List Config.ServiceEntry) (e : Config.ServiceEntry) (scanHint : Nat) :
    keptEntries asked (standardOf (asked ++ [e]) scanHint) = keptEntries asked (standardOf asked scanHint) := by
  cases asked with
  | nil => rfl
  | cons first rest => rfl

/-! ## The accumulation -/

theorem min?_concat (l : List Nat) (x : Nat) : (l ++ [x]).min? = minSome l.min? x := by
  cases l with
  | nil => rfl
  | cons y l => rw [List.cons_append, List.min?_cons', List.min?_cons', List.foldl_concat, minSome]

theorem max?_concat (l : List Nat) (x : Nat) : (l ++ [x]).max? = maxSome l.max? x := by
  cases l with
  | nil => rfl
  | cons y l => rw [List.cons_append, List.max?_cons', List.max?_cons', List.foldl_concat, maxSome]

/-- What rule R217 derives from the kept entries of the standard `scan`. -/
def keptAcc (hp : Config.HostParams) (scan : Nat) (kept : List Config.ServiceEntry) : ParamsAcc :=
  { scan := scan
    achievable := (kept.map (·.id)).foldl (· ||| ·) 0
    off := (kept.map (entryStart hp)).min?
    stop := (kept.map fun e => entryStart hp e + entryLength hp (signalNs e)).max?
    lo0 := ((usedRanges (kept.map fun e => (e.first0, e.last0))).map (·.1)).min?
    lo1 := ((usedRanges (kept.map fun e => (e.first1, e.last1))).map (·.1)).min?
    hi0 := ((usedRanges (kept.map fun e => (e.first0, e.last0))).map (·.2)).max?
    hi1 := ((usedRanges (kept.map fun e => (e.first1, e.last1))).map (·.2)).max? }

theorem usedRanges_concat (ranges : List (Nat × Nat)) (first last : Nat) :
    usedRanges (ranges ++ [(first, last)]) =
      if first ≠ 0 ∧ last ≠ 0 then usedRanges ranges ++ [(first, last)] else usedRanges ranges := by
  unfold usedRanges
  rw [List.filter_append]
  split
  · next h => rw [List.filter_cons_of_pos (by simpa using h), List.filter_nil]
  · next h => rw [List.filter_cons_of_neg (by simpa using h), List.filter_nil, List.append_nil]

/-- The ranges of a field after one more entry, as PARAMS accumulates them. -/
theorem range_concat (ranges : List (Nat × Nat)) (first last : Nat) :
    ((usedRanges (ranges ++ [(first, last)])).map (·.1)).min? =
      (if first ≠ 0 ∧ last ≠ 0 then minSome ((usedRanges ranges).map (·.1)).min? first
        else ((usedRanges ranges).map (·.1)).min?) ∧
    ((usedRanges (ranges ++ [(first, last)])).map (·.2)).max? =
      (if first ≠ 0 ∧ last ≠ 0 then maxSome ((usedRanges ranges).map (·.2)).max? last
        else ((usedRanges ranges).map (·.2)).max?) := by
  rw [usedRanges_concat]
  split
  · rw [List.map_append, List.map_append]
    exact ⟨min?_concat _ _, max?_concat _ _⟩
  · exact ⟨rfl, rfl⟩

/-- PARAMS at an entry that is not requested. -/
theorem paramsEntry_of_unasked {hp : Config.HostParams} {requested : BitVec 32} {e : Config.ServiceEntry}
    (h : e.id &&& requested = 0) (acc : ParamsAcc) : paramsEntry hp requested acc e = acc := if_pos h

/-- PARAMS at a requested entry of another standard. -/
theorem paramsEntry_of_dropped {hp : Config.HostParams} {requested : BitVec 32} {e : Config.ServiceEntry} {scan : Nat}
    {acc : ParamsAcc} (h : e.id &&& requested ≠ 0)
    (hscan : (if acc.scan = 0 then (if e.scan525 then 525 else 625) else acc.scan) = scan)
    (hno : entryHasScan e scan = false) : paramsEntry hp requested acc e = { acc with scan := scan } := by
  rw [paramsEntry, if_neg h]
  simp only [hscan, hno]
  rfl

/-- What PARAMS has accumulated after one more entry of the standard `scan`. -/
def widenAcc (hp : Config.HostParams) (scan : Nat) (acc : ParamsAcc) (e : Config.ServiceEntry) : ParamsAcc :=
  { scan := scan
    achievable := acc.achievable ||| e.id
    off := minSome acc.off (entryStart hp e)
    stop := maxSome acc.stop (entryStart hp e + entryLength hp (signalNs e))
    lo0 := if e.first0 ≠ 0 ∧ e.last0 ≠ 0 then minSome acc.lo0 e.first0 else acc.lo0
    hi0 := if e.first0 ≠ 0 ∧ e.last0 ≠ 0 then maxSome acc.hi0 e.last0 else acc.hi0
    lo1 := if e.first1 ≠ 0 ∧ e.last1 ≠ 0 then minSome acc.lo1 e.first1 else acc.lo1
    hi1 := if e.first1 ≠ 0 ∧ e.last1 ≠ 0 then maxSome acc.hi1 e.last1 else acc.hi1 }

/-- PARAMS at a requested entry of the standard. -/
theorem paramsEntry_of_kept {hp : Config.HostParams} {requested : BitVec 32} {e : Config.ServiceEntry} {scan : Nat}
    {acc : ParamsAcc} (h : e.id &&& requested ≠ 0)
    (hscan : (if acc.scan = 0 then (if e.scan525 then 525 else 625) else acc.scan) = scan)
    (hyes : entryHasScan e scan = true) : paramsEntry hp requested acc e = widenAcc hp scan acc e := by
  rw [paramsEntry, if_neg h]
  simp only [hscan, hyes]
  rfl

theorem keptAcc_concat (hp : Config.HostParams) (scan scan' : Nat) (kept : List Config.ServiceEntry)
    (e : Config.ServiceEntry) : keptAcc hp scan' (kept ++ [e]) = widenAcc hp scan' (keptAcc hp scan kept) e := by
  obtain ⟨hlo0, hhi0⟩ := range_concat (kept.map fun e => (e.first0, e.last0)) e.first0 e.last0
  obtain ⟨hlo1, hhi1⟩ := range_concat (kept.map fun e => (e.first1, e.last1)) e.first1 e.last1
  simp only [keptAcc, widenAcc, List.map_append, List.map_cons, List.map_nil, hlo0, hhi0, hlo1, hhi1, min?_concat,
    max?_concat, List.foldl_concat]

/-- PARAMS over a catalogue: the requested entries decide the standard, and those of it are kept. -/
theorem foldl_paramsEntry (hp : Config.HostParams) (requested : BitVec 32) (scanHint : Nat)
    (table : List Config.ServiceEntry) :
    table.foldl (paramsEntry hp requested) (keptAcc hp scanHint []) =
      let asked := table.filter fun e => e.id &&& requested != 0
      keptAcc hp (standardOf asked scanHint) (keptEntries asked (standardOf asked scanHint)) := by
  induction table using List.reverseRecOn with
  | nil =>
    have hhint : standardOf [] scanHint = scanHint := by
      rw [standardOf]
      split <;> simp_all
    simp only [List.filter_nil, hhint]
    rfl
  | append_singleton table e ih =>
    rw [List.foldl_concat, ih, List.filter_append]
    by_cases hasked : e.id &&& requested = 0
    · rw [paramsEntry_of_unasked hasked, List.filter_cons_of_neg (by simpa using hasked), List.filter_nil, List.append_nil]
    · rw [List.filter_cons_of_pos (by simpa using hasked), List.filter_nil]
      generalize table.filter (fun e => e.id &&& requested != 0) = asked
      have hscan := (standardOf_concat asked e scanHint).symm
      dsimp only
      rw [keptEntries_concat, keptEntries_standardOf_concat]
      cases hhas : entryHasScan e (standardOf (asked ++ [e]) scanHint) with
      | false =>
        rw [paramsEntry_of_dropped hasked hscan hhas, if_neg Bool.false_ne_true, List.append_nil]
        rfl
      | true => rw [paramsEntry_of_kept hasked hscan hhas, if_pos rfl, ← keptAcc_concat]

/-! ## The counts -/

/-- A field's count, as 32 bits in two's complement. -/
theorem ofNat_fieldCount (ranges : List (Nat × Nat)) :
    BitVec.ofNat 32 (fieldCount (ranges.map (·.1)).min? (ranges.map (·.2)).max?) = linesOf ranges := by
  cases ranges with
  | nil => rfl
  | cons p ranges =>
    rw [linesOf, if_neg (List.cons_ne_nil _ _), leastOr0, greatestOr0, List.map_cons, List.map_cons, List.min?_cons',
      List.max?_cons', fieldCount, Option.getD_some, Option.getD_some]
    apply BitVec.eq_of_toNat_eq
    rw [BitVec.toNat_ofNat, BitVec.toNat_ofInt]
    omega

/-- Settles O57: the catalogue is folded into what the rule derives, and the geometry written register by register. -/
theorem paramsStoresGeometry : Obligations.ParamsStoresGeometry := by
  refine ⟨fun e hcri hbit => ?_, fun hp requested scanHint s hseq h0 => ?_⟩
  · rw [signalNs, quotient_of_ne hcri, quotient_of_ne hbit]
  · have hacc : paramsAcc hp requested scanHint = _ := foldl_paramsEntry hp requested scanHint hp.table
    simp only [paramsProcedure, hacc, issueWrs_paramsWrites hseq h0, paramsGeometry, keptAcc, ofNat_fieldCount]
    rfl

end Sys2Proof.Machine
end

section
/-! The walk of one row up to the slot where it ends (spec/43_scheduler.md rules R233 to R239, R253): what the tests of the
slots in front leave, and what one tested slot does. -/

namespace Sys2Proof.Safety

open Sys2Proof.Machine

variable {cap r i k n p left : Nat} {s t : State} {bits : List Bool} {thresh : Nat}

/-! ## A slot that refers to an existing Job -/

theorem Candidate.slot_toNat (h : Candidate s r i k) : (slotAt (s.row r) i).toNat = k + 1 := by
  obtain ⟨hslot, hk, h8⟩ := h
  rw [hslot, BitVec.toNat_ofNat]
  omega

theorem Candidate.slot_isJobSlot (h : Candidate s r i k) : isJobSlot (slotAt (s.row r) i) = true :=
  isJobSlot_iff_toNat.mpr (by have := h.slot_toNat; obtain ⟨-, hk, h8⟩ := h; omega)

theorem Candidate.slotJob_slot (h : Candidate s r i k) : slotJob (slotAt (s.row r) i) = k := by
  rw [slotJob, h.slot_toNat, Nat.add_sub_cancel]

theorem Candidate.unique {k' : Nat} (h : Candidate s r i k) (h' : Candidate s r i k') : k = k' :=
  h.slotJob_slot.symm.trans h'.slotJob_slot

theorem Candidate.slot_le (h : Candidate s r i k) : (slotAt (s.row r) i).toNat ≤ s.njobs.toNat :=
  h.slot_toNat.trans_le h.2.1

theorem Candidate.not_dangling (h : Candidate s r i k) : ¬ Dangling s r i := fun ⟨_, hd⟩ =>
  Nat.not_lt_of_le h.slot_le hd

/-! ## What the test of such a slot does -/

theorem walkSlots_candidate_noMatch (h : Candidate s r i k) (hn : n ≠ cap) (hs : sliceOn s r k = .noMatch) :
    walkSlots cap r (left + 1) i n s = walkSlots cap r left (i + 1) n (retireSlicer s) := by
  rw [walkSlots_tested h.slot_isJobSlot h.slot_le hn, h.slotJob_slot, runSlice_of_noMatch (base := jobBase s r k) hs]

theorem walkSlots_candidate_overrun (h : Candidate s r i k) (hn : n ≠ cap) (hs : sliceOn s r k = .overrun) :
    walkSlots cap r (left + 1) i n s = (.overrun, n, retireSlicer s) := by
  rw [walkSlots_tested h.slot_isJobSlot h.slot_le hn, h.slotJob_slot, runSlice_of_overrun (base := jobBase s r k) hs]

theorem walkSlots_candidate_rejected (h : Candidate s r i k) (hn : n ≠ cap) (hs : sliceOn s r k = .matched bits thresh)
    (hcheck : ∀ pad, checkPasses s.params (s.job k).id (pack (s.job k).endian pad bits) = false) :
    walkSlots cap r (left + 1) i n s =
      walkSlots cap r left (i + 1) n (retireSlicer (setThresh k (BitVec.ofNat 32 thresh) s)) := by
  rw [walkSlots_tested h.slot_isJobSlot h.slot_le hn, h.slotJob_slot, runSlice_of_matched (base := jobBase s r k) hs]
  exact if_neg (by rw [hcheck]; exact Bool.false_ne_true)

theorem walkSlots_candidate_hit (h : Candidate s r i k) (hn : n ≠ cap) (hs : sliceOn s r k = .matched bits thresh)
    (hcheck : ∀ pad, checkPasses s.params (s.job k).id (pack (s.job k).endian pad bits) = true) :
    walkSlots cap r (left + 1) i n s =
      (.ended, n + 1, recordHit r i n (slotAt (s.row r) i) (s.job k)
        (pack (s.job k).endian (Config.freePad s.freeDraws) bits)
        (retireSlicer (setThresh k (BitVec.ofNat 32 thresh) s))) := by
  rw [walkSlots_tested h.slot_isJobSlot h.slot_le hn, h.slotJob_slot, runSlice_of_matched (base := jobBase s r k) hs]
  exact if_pos (hcheck _)

/-! ## The Jobs behind the slots that were tested -/

theorem JobsTracked.of_jobs_eq {u : State} (h : JobsTracked s t r p) (hjobs : u.jobs = t.jobs) : JobsTracked s u r p := by
  have hjob : ∀ m, u.job m = t.job m := fun m => by rw [State.job, hjobs]; rfl
  refine ⟨hjobs ▸ h.length, fun i hi k bits thresh hk hs => ?_, fun m hm => ?_⟩
  · rw [hjob, h.matched i hi k bits thresh hk hs]
  · rw [hjob, h.others m hm]

/-- A slot without a match tracks no threshold. -/
theorem JobsTracked.succ_of_unmatched (h : JobsTracked s t r p)
    (hp : ∀ k bits thresh, Candidate s r p k → sliceOn s r k ≠ .matched bits thresh) : JobsTracked s t r (p + 1) where
  length := h.length
  matched i hi k bits thresh hk hs := by
    rcases Nat.lt_succ_iff_lt_or_eq.mp hi with hi | rfl
    · exact h.matched i hi k bits thresh hk hs
    · exact absurd hs (hp k bits thresh hk)
  others m hm := h.others m fun i hi => hm i (Nat.lt_succ_of_lt hi)

/-- A slot with a match tracks its Job's threshold, where no slot in front has. -/
theorem JobsTracked.succ_of_matched (h : JobsTracked s t r p) (hlen : k < s.jobs.length) (hk : Candidate s r p k)
    (hjob : t.job k = s.job k) (hs : sliceOn s r k = .matched bits thresh) :
    JobsTracked s (retireSlicer (setThresh k (BitVec.ofNat 32 thresh) t)) r (p + 1) where
  length := by simp [h.length]
  matched i hi m bits' thresh' hm hs' := by
    by_cases hkm : k = m
    · subst hkm
      cases hs.symm.trans hs'
      rw [retireSlicer_job, setThresh_job_same (h.length ▸ hlen), hjob]
    · rw [retireSlicer_job, setThresh_job_other hkm]
      refine h.matched i (Nat.lt_of_le_of_ne (Nat.le_of_lt_succ hi) ?_) m bits' thresh' hm hs'
      rintro rfl
      exact hkm (hk.unique hm)
  others m hm := by
    have hkm : k ≠ m := fun e => hm p (Nat.lt_succ_self p) (e ▸ hk) bits thresh (e ▸ hs)
    rw [retireSlicer_job, setThresh_job_other hkm]
    exact h.others m fun i hi => hm i (Nat.lt_succ_of_lt hi)

theorem Reached.mono {q : Nat} (h : Reached s r p) (hq : q ≤ p) : Reached s r q :=
  ⟨fun i hi => h.missed i (hi.trans_le hq), fun i q' hi hq' => h.once i q' hi (hq'.trans hq)⟩

/-- The Job of the slot the walk comes to is as it was: of the slots in front only those with a failed `CHECK` track a
threshold, and none of them refers to it. -/
theorem JobsTracked.job_of_reached (h : JobsTracked s t r p) (hreach : Reached s r p) (hk : Candidate s r p k) :
    t.job k = s.job k := by
  refine h.others k fun i hi hik bits thresh hs => ?_
  rcases hreach.missed i hi with hd | ⟨m, hm, hno⟩ | hfails
  · exact hik.not_dangling hd
  · cases hik.unique hm
    rw [hno] at hs
    cases hs
  · exact hreach.once i p hi le_rfl hfails (hik.1.trans hk.1.symm)

/-! ## The walk past the slots that miss -/

/-- What the walk of row `r` from `s` leaves when it has come to slot `p`. -/
structure WalkedPast (s t : State) (r p : Nat) : Prop where
  writes : ∃ jobs work draws, t = { s with jobs := jobs, work := work, freeDraws := draws }
  tracked : JobsTracked s t r p

namespace WalkedPast

theorem zero (s : State) (r : Nat) : WalkedPast s s r 0 :=
  ⟨⟨_, _, _, rfl⟩, rfl, fun _ hi => absurd hi (Nat.not_lt_zero _), fun _ _ => rfl⟩

theorem row (h : WalkedPast s t r p) (q : Nat) : t.row q = s.row q := by
  obtain ⟨jobs, work, draws, rfl⟩ := h.writes
  rfl

theorem candidate (h : WalkedPast s t r p) (hk : Candidate s r i k) : Candidate t r i k := by
  obtain ⟨jobs, work, draws, rfl⟩ := h.writes
  exact hk

theorem dangling (h : WalkedPast s t r p) (hd : Dangling s r i) : Dangling t r i := by
  obtain ⟨jobs, work, draws, rfl⟩ := h.writes
  exact hd

theorem params (h : WalkedPast s t r p) : t.params = s.params := by
  obtain ⟨jobs, work, draws, rfl⟩ := h.writes
  rfl

theorem out (h : WalkedPast s t r p) : t.out = s.out := by
  obtain ⟨jobs, work, draws, rfl⟩ := h.writes
  rfl

/-- A Job that is as it was computes what it did. -/
theorem sliceOn_eq (h : WalkedPast s t r p) (hjob : t.job k = s.job k) : sliceOn t r k = sliceOn s r k := by
  rw [sliceOn, sliceOn, hjob]
  obtain ⟨jobs, work, draws, rfl⟩ := h.writes
  rfl

theorem retire (h : WalkedPast s t r p)
    (hp : ∀ k bits thresh, Candidate s r p k → sliceOn s r k ≠ .matched bits thresh) :
    WalkedPast s (retireSlicer t) r (p + 1) where
  writes := by
    obtain ⟨jobs, work, draws, rfl⟩ := h.writes
    exact ⟨_, _, _, rfl⟩
  tracked := (h.tracked.succ_of_unmatched hp).of_jobs_eq rfl

theorem track (h : WalkedPast s t r p) (hlen : k < s.jobs.length) (hk : Candidate s r p k) (hjob : t.job k = s.job k)
    (hs : sliceOn s r k = .matched bits thresh) :
    WalkedPast s (retireSlicer (setThresh k (BitVec.ofNat 32 thresh) t)) r (p + 1) where
  writes := by
    obtain ⟨jobs, work, draws, rfl⟩ := h.writes
    exact ⟨_, _, _, rfl⟩
  tracked := h.tracked.succ_of_matched hlen hk hjob hs

end WalkedPast

theorem Candidate.lt_jobs_length (h : Candidate s r i k) (hshape : ShapeOk s) : k < s.jobs.length := by
  obtain ⟨-, hk, h8⟩ := h
  rw [hshape.jobs]
  omega

/-- One slot that misses: the walk goes on behind it. -/
theorem WalkedPast.walkSlots_missed (h : WalkedPast s t r p) (hshape : ShapeOk s) (hreach : Reached s r p)
    (hmiss : Missed s r p) (hfull : n = cap → Dangling s r p) :
    ∃ u, WalkedPast s u r (p + 1) ∧ ∀ left, walkSlots cap r (left + 1) p n t = walkSlots cap r left (p + 1) n u := by
  have hn {k : Nat} (hk : Candidate s r p k) : n ≠ cap := fun hn => hk.not_dangling (hfull hn)
  rcases hmiss with hd | ⟨k, hk, hs⟩ | ⟨k, bits, thresh, hk, hs, hcheck⟩
  · obtain ⟨hv, hlt⟩ := h.dangling hd
    have htracked := h.tracked.succ_of_unmatched fun k _ _ hk => absurd hd hk.not_dangling
    exact ⟨t, ⟨h.writes, htracked⟩, fun left => walkSlots_dangling hv hlt⟩
  · have hjob := h.tracked.job_of_reached hreach hk
    refine ⟨_, h.retire fun k' bits thresh hk' => ?_, fun left =>
      walkSlots_candidate_noMatch (h.candidate hk) (hn hk) ((h.sliceOn_eq hjob).trans hs)⟩
    rw [← hk.unique hk', hs]
    nofun
  · have hjob := h.tracked.job_of_reached hreach hk
    refine ⟨_, h.track (hk.lt_jobs_length hshape) hk hjob hs, fun left =>
      walkSlots_candidate_rejected (h.candidate hk) (hn hk) ((h.sliceOn_eq hjob).trans hs) ?_⟩
    rwa [hjob, h.params]

/-- The walk of a row comes to slot `p` when the slots in front of it miss. -/
theorem exists_walkedPast (hshape : ShapeOk s) : ∀ {p : Nat}, Reached s r p → (n = cap → ∀ i < p, Dangling s r i) →
    ∃ t, WalkedPast s t r p ∧ ∀ left, walkSlots cap r (left + p) 0 n s = walkSlots cap r left p n t
  | 0, _, _ => ⟨s, WalkedPast.zero s r, fun _ => rfl⟩
  | p + 1, hreach, hfull => by
    have hreach' := hreach.mono (Nat.le_succ p)
    obtain ⟨t, ht, hwalk⟩ := exists_walkedPast hshape hreach' fun hn i hi => hfull hn i (Nat.lt_succ_of_lt hi)
    obtain ⟨u, hu, hslot⟩ := ht.walkSlots_missed hshape hreach' (hreach.missed p (Nat.lt_succ_self p))
      fun hn => hfull hn p (Nat.lt_succ_self p)
    refine ⟨u, hu, fun left => ?_⟩
    rw [show left + (p + 1) = left + 1 + p by omega, hwalk, hslot]

/-- `exists_walkedPast` for a slot of the row that is tested with room for a record. -/
theorem exists_walkedPast_tested (hshape : ShapeOk s) (hp : p < 8) (hn : n ≠ cap) (hreach : Reached s r p) :
    ∃ t, WalkedPast s t r p ∧ walkSlots cap r 8 0 n s = walkSlots cap r (7 - p + 1) p n t := by
  obtain ⟨t, ht, hwalk⟩ := exists_walkedPast hshape hreach fun h => absurd h hn
  refine ⟨t, ht, ?_⟩
  rw [← hwalk]
  congr 1
  omega

/-- Dangling references are passed over with nothing touched. -/
theorem walkSlots_past_dangling : ∀ {i : Nat}, (∀ q < i, Dangling s r q) → ∀ left,
    walkSlots cap r (left + i) 0 n s = walkSlots cap r left i n s
  | 0, _, _ => rfl
  | i + 1, h, left => by
    obtain ⟨hv, hd⟩ := h i (Nat.lt_succ_self i)
    rw [show left + (i + 1) = left + 1 + i by omega, walkSlots_past_dangling fun q hq => h q (Nat.lt_succ_of_lt hq),
      walkSlots_dangling hv hd]

/-- Settles O39: the three endings of the walk, each behind the slots in front of it. -/
theorem rowStopsUntouched : Obligations.RowStopsUntouched := by
  refine ⟨fun cap r n p j s hshape hp hn hreach hj hs => ?_, fun cap r n s hshape hfull hreach => ?_,
    fun cap r n i s hdangling => ⟨fun hi hv hd => ?_, fun hi => ?_⟩⟩
  · obtain ⟨t, ht, hwalk⟩ := exists_walkedPast_tested hshape hp hn hreach
    have hjob := ht.tracked.job_of_reached hreach hj
    rw [hwalk, walkSlots_candidate_overrun (ht.candidate hj) hn ((ht.sliceOn_eq hjob).trans hs)]
    have htracked := ht.tracked
    obtain ⟨jobs, work, draws, rfl⟩ := ht.writes
    exact ⟨_, rfl, hjob, htracked.of_jobs_eq rfl, rfl⟩
  · obtain ⟨t, ht, hwalk⟩ := exists_walkedPast hshape hreach hfull
    rw [show walkSlots cap r 8 0 n s = walkSlots cap r 0 8 n t from hwalk 0]
    have htracked := ht.tracked
    obtain ⟨jobs, work, draws, rfl⟩ := ht.writes
    exact ⟨_, rfl, htracked, rfl⟩
  · rw [show 8 = 7 - i + 1 + i by omega, walkSlots_past_dangling hdangling, walkSlots_full hv hd]
  · subst hi
    exact walkSlots_past_dangling hdangling 0

end Sys2Proof.Safety
end

section
/-! The endings of a row's walk that write PAT (spec/43_scheduler.md rules R235 to R237, R241 to R244): the slots of the new
row, the record of a hit, and the three obligations. -/

namespace Sys2Proof.Safety

open Sys2Proof.Machine

variable {row : Row} {p i q n r : Nat} {v : Slot}

/-! ## The slots of the new row -/

theorem slotAt_set (hp : p < row.length) (v : Slot) (i : Nat) :
    slotAt (row.set p v) i = if i = p then v else slotAt row i := by
  split
  · next h => rw [h, slotAt_set_self hp]
  · next h => exact slotAt_set_ne (Ne.symm h)

theorem slotAt_promote (h8 : row.length = 8) (hp : p < 8) (v : Slot) (i : Nat) :
    slotAt (promote row p v) i = if i = 0 then v else if i = p then slotAt row 0 else slotAt row i := by
  rw [promote, slotAt_set (by simp [h8]), slotAt_set (h8 ▸ hp)]

theorem slotAt_hitRow (h8 : row.length = 8) (hp : p < 8) (v : Slot) (i : Nat) :
    slotAt (hitRow row p v) i =
      if i = 0 then v else if i = p then slotAt row 0 else if i = 7 then 0x80 else slotAt row i := by
  have h7 : 7 < row.length := by omega
  rw [hitRow, slotAt_promote (by simpa using h8) hp, slotAt_set h7, slotAt_set h7]
  rfl

theorem slotAt_rotateRow (h8 : row.length = 8) (hi : i < 8) :
    slotAt (rotateRow row) i = if i = 7 then slotAt row 0 else slotAt row (i + 1) := by
  have htail : row.tail.length = 7 := by simp [h8]
  rw [slotAt, rotateRow, List.getD_eq_getElem?_getD]
  split
  · next h => rw [h, List.getElem?_append_right htail.le, htail]; rfl
  · next h =>
    rw [List.getElem?_append_left (by omega), List.getElem?_tail]
    exact (List.getD_eq_getElem?_getD ..).symm

/-- A front that is no Job (rules R241, R242). -/
theorem slotAt_restRow_front (h8 : row.length = 8) (retest : BitVec 4) (hi : i < 8) :
    slotAt (restRow retest row 0) i =
      if retest = 0 then (if i = 7 then slotAt row 0 else slotAt row (i + 1)) else slotAt row i := by
  rw [restRow, if_pos rfl]
  split
  · exact slotAt_rotateRow h8 hi
  · rfl

/-- A non-Job slot behind the front (rules R243, R244). -/
theorem slotAt_restRow_behind (h8 : row.length = 8) (retest : BitVec 4) (hp : p < 8) (hpos : p ≠ 0) (i : Nat) :
    slotAt (restRow retest row p) i =
      if (slotAt row 7).toInt < 0 then (if i = 7 then slotAt row 7 + 1 else slotAt row i)
      else if i = 0 then 0 else if i = p then slotAt row 0 else slotAt row i := by
  rw [restRow, if_neg hpos]
  change slotAt (if (slotAt row 7).toInt < 0 then _ else _) i = _
  split
  · exact slotAt_set (by omega) _ i
  · exact slotAt_promote h8 hp 0 i

/-! ## The record of a hit (rules R235, R240) -/

theorem le32_getD_toNat (x : BitVec 32) (hq : q < 4) : ((le32 x).getD q 0).toNat = x.toNat / 256 ^ q % 256 := by
  have hbyte : ∀ a, (x.extractLsb' a 8).toNat = x.toNat / 2 ^ a % 256 := fun a => by
    rw [BitVec.extractLsb'_toNat, Nat.shiftRight_eq_div_pow]
  rcases (by omega : q = 0 ∨ q = 1 ∨ q = 2 ∨ q = 3) with rfl | rfl | rfl | rfl <;> exact hbyte _

theorem lineNumber_toNat (s : State) (r : Nat) : (lineNumber s.geom r).toNat = lineOf s r := by
  have hline : ∀ (start : BitVec 32) (k : Nat), (if start = 0 then 0 else start + BitVec.ofNat 32 k).toNat =
      if start.toNat = 0 then 0 else (start.toNat + k) % 2 ^ 32 := fun start k => by
    by_cases h : start = 0
    · simp [h]
    · have h' : start.toNat ≠ 0 := fun h0 => h (BitVec.eq_of_toNat_eq h0)
      rw [if_neg h, if_neg h', BitVec.toNat_add, BitVec.toNat_ofNat, Nat.add_mod_mod]
  unfold lineNumber lineOf
  split <;> exact hline _ _

section Record

variable {g : Geometry} {job : Job} {bytes : List Byte}

theorem recordBytes_length : (recordBytes g job r bytes).length = 8 + bytes.length := by
  rw [recordBytes, List.length_append]
  rfl

theorem recordBytes_getD_id (hq : q < 4) : (recordBytes g job r bytes).getD q 0 = (le32 job.id).getD q 0 := by
  rw [recordBytes, List.append_assoc, List.getD_append _ _ _ _ hq]

theorem recordBytes_getD_line (hq : q < 4) :
    (recordBytes g job r bytes).getD (4 + q) 0 = (le32 (lineNumber g r)).getD q 0 := by
  rw [recordBytes, List.append_assoc, List.getD_append_right _ _ _ _ (Nat.le_add_right 4 q), List.getD_append]
  · exact congrArg (List.getD _ · 0) (Nat.add_sub_cancel_left ..)
  · change 4 + q - 4 < 4
    omega

theorem recordBytes_getD_payload : (recordBytes g job r bytes).getD (8 + q) 0 = bytes.getD q 0 := by
  rw [recordBytes, List.getD_append_right _ _ _ _ (Nat.le_add_right 8 q)]
  exact congrArg (List.getD _ · 0) (Nat.add_sub_cancel_left ..)

/-! ### OUT after a hit -/

variable {u : State}

theorem recordHit_read_inside (hwf : u.out.wf = true) (hq : q < 8 + bytes.length) :
    (recordHit r i n v job bytes u).out.read (64 * n + q) = (recordBytes u.geom job r bytes).getD q 0 :=
  Memory.writeBytes_getD hwf _ (by rwa [recordBytes_length])

theorem recordHit_read_id (hwf : u.out.wf = true) (hq : q < 4) :
    ((recordHit r i n v job bytes u).out.read (64 * n + q)).toNat = job.id.toNat / 256 ^ q % 256 := by
  rw [recordHit_read_inside hwf (by omega), recordBytes_getD_id hq, le32_getD_toNat _ hq]

theorem recordHit_read_line (hwf : u.out.wf = true) (hq : q < 4) :
    ((recordHit r i n v job bytes u).out.read (64 * n + 4 + q)).toNat = lineOf u r / 256 ^ q % 256 := by
  rw [Nat.add_assoc, recordHit_read_inside hwf (by omega), recordBytes_getD_line hq, le32_getD_toNat _ hq, lineNumber_toNat]

theorem recordHit_read_payload (hwf : u.out.wf = true) (hq : q < bytes.length) :
    (recordHit r i n v job bytes u).out.read (64 * n + 8 + q) = bytes.getD q 0 := by
  rw [Nat.add_assoc, recordHit_read_inside hwf (by omega), recordBytes_getD_payload]

theorem recordHit_read_outside (hwf : u.out.wf = true) {x : Nat} (hx : x < 64 * n ∨ 64 * n + 8 + bytes.length ≤ x) :
    (recordHit r i n v job bytes u).out.read x = u.out.read x :=
  Memory.writeBytes_read_outside _ hwf (by rwa [recordBytes_length, ← Nat.add_assoc])

end Record

/-! ## The obligations -/

theorem ShapeOk.lt_pat_length {s : State} (h : ShapeOk s) (hr : r < s.params.maxLines) : r < s.pat.length := h.pat ▸ hr

/-- Settles O38: the walk ends at the front, with the slots of `slotAt_restRow_front`. -/
theorem rowFrontBlank : Obligations.RowFrontBlank := by
  intro cap r n s hshape hr hfront
  refine ⟨_, walkSlots_rest hfront, fun i hi => ?_, fun q hq => setRow_row_other s r q _ hq.symm, rfl⟩
  rw [setRow_row_same s r _ (hshape.lt_pat_length hr)]
  exact slotAt_restRow_front (hshape.row_length r) _ hi

/-- Settles O37: the walk comes past the Jobs that miss to slot `m`, and ends there with the slots of
`slotAt_restRow_behind`. -/
theorem rowMiss : Obligations.RowMiss := by
  intro cap r n m s hshape hr h1 h7 hfull hreach hfree
  obtain ⟨t, ht, hwalk⟩ := exists_walkedPast hshape hreach hfull
  have hrest : walkSlots cap r 8 0 n s = (.ended, n, setRow r (restRow t.retest (t.row r) m) t) := by
    rw [show 8 = 7 - m + 1 + m by omega, hwalk, walkSlots_rest (by rwa [ht.row])]
  have htracked := ht.tracked
  obtain ⟨jobs, work, draws, rfl⟩ := ht.writes
  refine ⟨_, hrest, fun i _ => ?_, fun q hq => setRow_row_other _ r q _ hq.symm, htracked.of_jobs_eq rfl, rfl⟩
  rw [setRow_row_same _ r _ (by exact hshape.lt_pat_length hr)]
  exact slotAt_restRow_behind (hshape.row_length r) _ (by omega) (by omega) i

/-- Settles O36: the walk comes past the slots that miss to slot `p`, whose test ends it with the record and the slots of
`slotAt_hitRow`. -/
theorem rowHit : Obligations.RowHit := by
  intro cap r n p j s bits thresh hshape hwf hr hp hn hreach hj hs hcheck len
  obtain ⟨t, ht, hwalk⟩ := exists_walkedPast_tested hshape hp hn hreach
  have hjob := ht.tracked.job_of_reached hreach hj
  have hhit := walkSlots_candidate_hit (left := 7 - p) (ht.candidate hj) hn ((ht.sliceOn_eq hjob).trans hs)
    (by rwa [hjob, ht.params])
  rw [hjob, ht.row, ← hwalk] at hhit
  have hu := ht.track (hj.lt_jobs_length hshape) hj hjob hs
  generalize retireSlicer (setThresh j (BitVec.ofNat 32 thresh) t) = u at hhit hu
  have hlen : ∀ pad, (pack (s.job j).endian pad bits).length = len := fun pad => by
    rw [pack_length, sliceJob_matched_length hs]
  have hwfu : u.out.wf = true := hu.out ▸ hwf
  have hthresh := hu.tracked.matched p (Nat.lt_succ_self p) j bits thresh hj hs
  have htracked := hu.tracked
  obtain ⟨jobs, work, draws, rfl⟩ := hu.writes
  refine ⟨_, _, hhit, fun i _ => ?_, fun q hq => setRow_row_other _ r q _ hq.symm,
    fun q hq => recordHit_read_id hwfu hq, fun q hq => recordHit_read_line hwfu hq,
    fun q hq => recordHit_read_payload hwfu (by rwa [hlen]), fun x hx => recordHit_read_outside hwfu (by rwa [hlen]),
    hthresh, htracked.of_jobs_eq rfl, rfl⟩
  rw [recordHit, setRow_row_same _ r _ (by exact hshape.lt_pat_length hr)]
  exact slotAt_hitRow (hshape.row_length r) hp _ i

end Sys2Proof.Safety
end

section
/-! The whole command DECODE (spec/43_scheduler.md rules R231, R232, R246, R247, R252): its rows one after the other, its two
endings, and what it leaves alone. -/

namespace Sys2Proof.Machine

open Sys2Proof.Safety

variable {cap r n : Nat} {s t : State}

/-! ## The rows one after the other (rule R232) -/

theorem walkRows_of_ended {left n' : Nat} (h : walkSlots cap r 8 0 n s = (.ended, n', t)) :
    walkRows cap (left + 1) r n s = walkRows cap left (r + 1) n' t := by
  rw [walkRows, show Config.maxWays = 8 from rfl, h]

theorem walkRows_of_stopped {left n' : Nat} {e : RowEnd} (h : walkSlots cap r 8 0 n s = (e, n', t)) (he : e ≠ .ended) :
    walkRows cap (left + 1) r n s = (e, n', t) := by
  rw [walkRows, show Config.maxWays = 8 from rfl, h]
  cases e with
  | ended => exact absurd rfl he
  | full => rfl
  | overrun => rfl

/-- The rows that end hand the machine and the count on, each to the next. -/
theorem walkRows_past {at_ : Nat → State} {count : Nat → Nat} : ∀ {m : Nat},
    (∀ r < m, walkSlots cap r 8 0 (count r) (at_ r) = (.ended, count (r + 1), at_ (r + 1))) → ∀ left,
    walkRows cap (left + m) 0 (count 0) (at_ 0) = walkRows cap left m (count m) (at_ m)
  | 0, _, _ => rfl
  | m + 1, h, left => by
    rw [show left + (m + 1) = left + 1 + m by omega, walkRows_past fun r hr => h r (Nat.lt_succ_of_lt hr),
      walkRows_of_ended (h m (Nat.lt_succ_self m))]

/-! ## The endings (rules R231, R247; spec/60_exceptions.md rule R277) -/

/-- The walk of DECODE keeps `RETEST` and the host's actions. -/
theorem walkRows_retest_host {e : RowEnd} (h : walkRows (outputCap s) (rowCount s.geom) 0 0 s = (e, n, t)) :
    t.retest = s.retest ∧ t.host = s.host := by
  have hretest := (walkKeeps_retest s.retest).walkRows_keeps (left := rowCount s.geom) (r := 0) (n := 0) rfl rfl
  have hframe := (CommandFrame.walkKeeps s).walkRows_keeps (left := rowCount s.geom) (r := 0) (n := 0) rfl
    (CommandFrame.refl s)
  rw [h] at hretest hframe
  exact ⟨hretest, hframe.host⟩

theorem exec_decode (s : State) : exec .decode s = .next (complete (cmdDecode s)) := rfl

/-- DECODE when its walk ends or stops on a full output. -/
theorem exec_decode_of_done {e : RowEnd} (hframe : frameRows s ≤ s.params.maxLines)
    (h : walkRows (outputCap s) (rowCount s.geom) 0 0 s = (e, n, t)) (he : e ≠ .overrun) :
    exec .decode s = .next { t with
      retest := s.retest + 1, result := 0, value := BitVec.ofNat 32 n, host := s.host.tail } := by
  obtain ⟨hretest, hhost⟩ := walkRows_retest_host h
  rcases cmdDecode_cases s with ⟨hlt, -⟩ | ⟨-, e', n', t', hw, hend⟩
  · exact absurd hframe (Nat.not_le_of_lt hlt)
  cases h.symm.trans hw
  rcases hend with ⟨rfl, -⟩ | ⟨-, hcmd⟩
  · exact absurd rfl he
  · rw [exec_decode, hcmd, ← hretest, ← hhost]
    rfl

/-- DECODE when a SLICE of its walk leaves RAW. -/
theorem exec_decode_of_overrun (hframe : frameRows s ≤ s.params.maxLines)
    (h : walkRows (outputCap s) (rowCount s.geom) 0 0 s = (.overrun, n, t)) :
    exec .decode s = .next { t with result := 8, value := BitVec.ofNat 32 n, host := s.host.tail } := by
  rcases cmdDecode_cases s with ⟨hlt, -⟩ | ⟨-, e', n', t', hw, hend⟩
  · exact absurd hframe (Nat.not_le_of_lt hlt)
  cases h.symm.trans hw
  rcases hend with ⟨-, hcmd⟩ | ⟨he, -⟩
  · rw [exec_decode, hcmd, ← (walkRows_retest_host h).2]
    rfl
  · exact absurd rfl he

/-- Settles O40: the rows in front of row `m` are handed on, and the ending is that of row `m` or of the last. -/
theorem decodeWalksRowsInOrder : Obligations.DecodeWalksRowsInOrder := by
  intro s m at_ count hframe hm cap h0 hcount hrows
  have hpast := walkRows_past hrows
  rw [h0, hcount] at hpast
  have hstop : ∀ {e n t}, m < frameRows s → walkSlots cap m 8 0 (count m) (at_ m) = (e, n, t) → e ≠ .ended →
      walkRows (outputCap s) (rowCount s.geom) 0 0 s = (e, n, t) := fun hlt hrow he => by
    have hwalk := hpast (frameRows s - m - 1 + 1)
    rw [walkRows_of_stopped hrow he, show frameRows s - m - 1 + 1 + m = frameRows s by omega] at hwalk
    exact hwalk
  refine ⟨fun hall => ?_, fun n t hlt hrow => ?_, fun n t hlt hrow => ?_⟩
  · subst hall
    have hwalk := hpast 0
    rw [Nat.zero_add] at hwalk
    exact exec_decode_of_done hframe hwalk nofun
  · exact exec_decode_of_done hframe (hstop hlt hrow nofun) nofun
  · have hwalk := hstop hlt hrow nofun
    exact ⟨exec_decode_of_overrun hframe hwalk, (walkRows_retest_host hwalk).1⟩

/-- Settles O41: the refusal at entry, and the two endings of the walk. -/
theorem decodeEntryAndEnd : Obligations.DecodeEntryAndEnd := by
  intro s
  refine ⟨fun hlt => ?_, fun hframe => ?_⟩
  · have hcmd : cmdDecode s = raise .allocError s := if_pos hlt
    rw [exec_decode, hcmd]
    rfl
  · rcases hw : walkRows (outputCap s) (rowCount s.geom) 0 0 s with ⟨e, n, t⟩
    by_cases he : e = .overrun
    · subst he
      exact ⟨_, exec_decode_of_overrun hframe hw, .inr ⟨rfl, (walkRows_retest_host hw).1⟩⟩
    · exact ⟨_, exec_decode_of_done hframe hw he, .inl ⟨rfl, rfl⟩⟩

/-! ## What DECODE leaves alone (rule R252) -/

/-- The walk of a row writes no other row. -/
theorem walkSlots_row_other {q : Nat} (hq : r ≠ q) : ∀ {left i : Nat} {s : State},
    (walkSlots cap r left i n s).2.2.row q = s.row q
  | 0, _, _ => rfl
  | left + 1, i, s => by
    cases hv : isJobSlot (slotAt (s.row r) i) with
    | false =>
      rw [walkSlots_rest hv]
      exact setRow_row_other s r q _ hq
    | true =>
      rcases Nat.lt_or_ge s.njobs.toNat (slotAt (s.row r) i).toNat with hd | hd
      · rw [walkSlots_dangling hv hd]
        exact walkSlots_row_other hq
      by_cases hn : n = cap
      · subst hn
        rw [walkSlots_full hv hd]
      rw [walkSlots_tested hv hd hn]
      rcases runSlice_cases (slotJob (slotAt (s.row r) i)) (jobBase s r (slotJob (slotAt (s.row r) i))) s with
        ⟨bits, thresh, -, he⟩ | ⟨-, he⟩ | ⟨-, he⟩ <;> rw [he]
      · dsimp only
        split
        · exact setRow_row_other _ r q _ hq
        · exact walkSlots_row_other hq
      · exact walkSlots_row_other hq
      · rfl

theorem walkRows_row_beyond {q : Nat} : ∀ {left r n : Nat} {s : State}, r + left ≤ q →
    (walkRows cap left r n s).2.2.row q = s.row q
  | 0, _, _, _, _ => rfl
  | left + 1, r, n, s, hle => by
    have hrow := walkSlots_row_other (cap := cap) (n := n) (left := 8) (i := 0) (s := s) (show r ≠ q by omega)
    rcases hw : walkSlots cap r 8 0 n s with ⟨e, n', t⟩
    rw [hw] at hrow
    by_cases he : e = .ended
    · subst he
      rw [walkRows_of_ended hw, walkRows_row_beyond (by omega)]
      exact hrow
    · rw [walkRows_of_stopped hw he]
      exact hrow

/-- `t` has of `s` the files that DECODE walks over, less the slots and the thresholds: the Jobs' configurations, the sizes
of the files, and the registers that say which Jobs exist. -/
structure DecodeKeeps (s t : State) : Prop where
  configs : ∀ j, t.job j = { s.job j with thresh := (t.job j).thresh }
  jobsLength : t.jobs.length = s.jobs.length
  patLength : t.pat.length = s.pat.length
  services : t.services = s.services
  njobs : t.njobs = s.njobs

namespace DecodeKeeps

theorem refl (s : State) : DecodeKeeps s s := ⟨fun _ => rfl, rfl, rfl, rfl, rfl⟩

theorem setThresh (h : DecodeKeeps s t) (j : Nat) (v : BitVec 32) : DecodeKeeps s (setThresh j v t) where
  configs k := by
    obtain ⟨thresh, he⟩ := setThresh_job_eq t j k v
    rw [he, h.configs k]
  jobsLength := by simp [h.jobsLength]
  patLength := h.patLength
  services := h.services
  njobs := h.njobs

theorem setRow (h : DecodeKeeps s t) (r : Nat) (row : Row) : DecodeKeeps s (setRow r row t) where
  configs := h.configs
  jobsLength := h.jobsLength
  patLength := by simp [h.patLength]
  services := h.services
  njobs := h.njobs

theorem walkKeeps (s : State) : WalkKeeps (DecodeKeeps s) where
  retire _ h := { h with }
  track _ j _ _ thresh h _ _ := { h.setThresh j (BitVec.ofNat 32 thresh) with }
  hit _ r _ _ _ _ _ h _ _ _ _ _ _ _ := { h.setRow r _ with }
  rest _ r _ h _ _ _ := h.setRow r _

theorem cmdDecode (s : State) : DecodeKeeps s (cmdDecode s) :=
  (walkKeeps s).cmdDecode_keeps (fun _ _ h => { h with }) (fun _ _ _ h => { h with }) (fun _ _ h => { h with }) s (refl s)

/-- With the frame of every command, this leaves what DECODE may write. -/
theorem eq_of_commandFrame (h : DecodeKeeps s t) (hframe : CommandFrame s t) :
    t = { s with
      jobs := t.jobs, pat := t.pat, retest := t.retest, out := t.out, result := t.result, value := t.value
      work := t.work, freeDraws := t.freeDraws } := by
  rw [← h.services, ← h.njobs, ← hframe.params, ← hframe.geom, ← hframe.staging, ← hframe.seq, ← hframe.raw,
    ← hframe.rawBytes, ← hframe.reply, ← hframe.host]

end DecodeKeeps

theorem cmdDecode_row_beyond (s : State) {q : Nat} (hq : frameRows s ≤ q) : (cmdDecode s).row q = s.row q := by
  rcases cmdDecode_cases s with ⟨-, he⟩ | ⟨-, e, n, t, hw, hend⟩
  · rw [he]
    rfl
  · have hrow : t.row q = s.row q := by
      have := walkRows_row_beyond (cap := outputCap s) (n := 0) (s := s) ((Nat.zero_add (rowCount s.geom)).le.trans hq)
      rwa [hw] at this
    rcases hend with ⟨-, he⟩ | ⟨-, he⟩ <;> rw [he] <;> exact hrow

/-- Settles O42: the frame kept by every update of the walk, and the rows behind the frame kept by every row's walk. -/
theorem decodeFrame : Obligations.DecodeFrame := by
  intro s
  have h := DecodeKeeps.cmdDecode s
  exact ⟨_, exec_decode s, h.configs, h.jobsLength, fun r hr => cmdDecode_row_beyond s hr, h.patLength,
    congrArg complete (h.eq_of_commandFrame (CommandFrame.cmdDecode s))⟩

end Sys2Proof.Machine
end

section
/-! What the model does in place of a trap (spec/60_exceptions.md): every step goes on (rules R280, R289), the locked
geometry (rule R278), and the refusals of SLICE (rule R279). -/

namespace Sys2Proof.Machine

open Sys2Proof.Safety

/-! ## Every step goes on (rules R280, R289) -/

theorem step_silent {s : State} (hseq : s.seq = .idle) (hhost : s.host = []) : step s = .next s := by
  simp only [step, hseq, hhost]

/-- Settles O7: the five things a step can do, of which a transaction is one instruction of those that keep what the host
owns. -/
theorem everyStepGoesOn : Obligations.EveryStepGoesOn := by
  intro s hseq
  cases hhost : s.host with
  | nil => exact ⟨s, step_silent hseq hhost, hseq, rfl, fun _ => rfl⟩
  | cons action rest =>
    have hbusy {t : State} (h : action :: rest = []) : t = s := absurd h (List.cons_ne_nil action rest)
    cases action with
    | transaction w =>
      obtain ⟨t, he, -, -, hparams, hseq', -⟩ := everyInstructionKeepsHostOwned (decode w) s
      exact ⟨t, (step_transaction hseq hhost).trans he, hseq'.trans hseq, hparams, hbusy⟩
    | fillRaw bytes => exact ⟨_, step_fillRaw hseq hhost, hseq, rfl, hbusy⟩
    | fillOut bytes => exact ⟨_, step_fillOut hseq hhost, hseq, rfl, hbusy⟩
    | powerOnReset => exact ⟨_, step_powerOnReset hseq hhost, rfl, rfl, hbusy⟩

/-! ## The locked geometry (rule R278) -/

/-- The numbers up to 0x09 are the geometry's, all of them (spec/30_encoding.md rule R94). -/
theorem exists_regName_geom {reg : BitVec 7} (hle : reg.toNat ≤ 0x09) : ∃ g, regName reg = .geom g := by
  cases hreg : regName reg with
  | geom g => exact ⟨g, rfl⟩
  | stage a =>
    have := regName_stage_range hreg
    omega
  | status r =>
    have := regName_status_range hreg
    omega
  | cmd =>
    rw [regName_cmd_eq hreg] at hle
    simp at hle
  | reserved =>
    have := regName_reserved_range hreg
    omega

/-- A write of a geometry register while a Job exists, as an instruction. -/
theorem exec_wr_geom_locked {s : State} (h : s.njobs ≠ 0) {reg : BitVec 7} {g : GeomReg} (hreg : regName reg = .geom g)
    (v : BitVec 32) : exec (.wr reg v) s = .next { s with result := 6, host := s.host.tail } := by
  rw [exec, execWr, writeReg_of_geom hreg, writeGeometry_locked h]
  rfl

/-- Settles O12: a geometry register by whether a Job exists, every other plain register by its equation, which leaves
`R_RESULT`. -/
theorem geometryWriteLocked : Obligations.GeometryWriteLocked := by
  intro s reg v
  refine ⟨fun hle hjobs => ?_, fun hplain => ?_⟩
  · obtain ⟨g, hreg⟩ := exists_regName_geom hle
    exact exec_wr_geom_locked hjobs hreg v
  cases hreg : regName reg with
  | geom g =>
    by_cases h0 : s.njobs = 0
    · exact ⟨_, exec_wr_geom h0 hreg v, .inl rfl⟩
    · exact ⟨_, exec_wr_geom_locked h0 hreg v, .inr ⟨rfl, h0⟩⟩
  | stage a => exact ⟨_, exec_wr_stage hreg v s, .inl rfl⟩
  | status r => exact ⟨_, exec_wr_ignored (.inl ⟨r, hreg⟩) v s, .inl rfl⟩
  | cmd => exact absurd (regName_cmd_eq hreg) hplain
  | reserved => exact ⟨_, exec_wr_ignored (.inr hreg) v s, .inl rfl⟩

/-! ## The refusals of SLICE (rules R279, R281) -/

theorem cmdSlice_of_noJob {s : State} {a : BitVec 3} (ha : s.njobs.toNat ≤ a.toNat) (b : BitVec 16) :
    cmdSlice a b s = raise .badJob s := if_pos ha

theorem cmdSlice_of_noRecord {s : State} {a : BitVec 3} {b : BitVec 16} (ha : a.toNat < s.njobs.toNat)
    (hb : s.params.outRecords ≤ b.toNat) : cmdSlice a b s = raise .badCmd s := by
  rw [cmdSlice, if_neg (Nat.not_le.mpr ha), if_pos hb]

/-- Settles O30: the illegal word is refused before its fields are read, then the Job's test comes before the record's. -/
theorem sliceRefusals : Obligations.SliceRefusals :=
  ⟨illegalCommandWord, fun _ b _ =>
    ⟨fun ha => exec_slice_eq (cmdSlice_of_noJob ha b), fun ha hb => exec_slice_eq (cmdSlice_of_noRecord ha hb)⟩⟩

end Sys2Proof.Machine
end

section
/-! DECODE with nothing to test (spec/70_reset_and_hazards.md rules R302, R317): without a Job every Job slot dangles, and
without room the first slot of a Job stops the walk, so that no SLICE runs and the walk writes PAT alone. -/

namespace Sys2Proof.Machine

open Sys2Proof.Safety

variable {cap r : Nat} {s : State}

/-- No Job exists, or the output has no room: an existing Job's slot stops a walk before its SLICE. -/
def NothingToTest (cap : Nat) (s : State) : Prop := s.njobs = 0 ∨ cap = 0

/-- The walk that ends as `w` from `s` has written no record and nothing but PAT, and no SLICE of it left RAW. -/
def EndsUntested (s : State) (w : RowEnd × Nat × State) : Prop :=
  ∃ e pat, e ≠ .overrun ∧ w = (e, 0, { s with pat := pat })

/-- What ends untested after a change of PAT alone ends untested. -/
theorem EndsUntested.of_pat {pat : List Row} {w : RowEnd × Nat × State} (h : EndsUntested { s with pat := pat } w) :
    EndsUntested s w := h

/-- With nothing to test, a slot that refers to a Job can only stop the walk on a full output. -/
theorem NothingToTest.cap_eq_zero (h : NothingToTest cap s) {v : Slot} (hv : isJobSlot v = true)
    (hd : v.toNat ≤ s.njobs.toNat) : cap = 0 := by
  rcases h with hjobs | hcap
  · have hpos := isJobSlot_pos hv
    rw [hjobs] at hd
    exact absurd (hpos.trans hd) (by decide)
  · exact hcap

theorem NothingToTest.walkSlots (h : NothingToTest cap s) : ∀ {left i : Nat},
    EndsUntested s (walkSlots cap r left i 0 s)
  | 0, _ => ⟨.ended, s.pat, nofun, rfl⟩
  | left + 1, i => by
    cases hv : isJobSlot (slotAt (s.row r) i) with
    | false => exact ⟨.ended, _, nofun, walkSlots_rest hv⟩
    | true =>
      rcases Nat.lt_or_ge s.njobs.toNat (slotAt (s.row r) i).toNat with hd | hd
      · rw [walkSlots_dangling hv hd]
        exact h.walkSlots
      · rw [h.cap_eq_zero hv hd]
        exact ⟨.full, s.pat, nofun, walkSlots_full hv hd⟩

theorem NothingToTest.walkRows : ∀ {left r : Nat} {s : State}, NothingToTest cap s →
    EndsUntested s (walkRows cap left r 0 s)
  | 0, _, s, _ => ⟨.ended, s.pat, nofun, rfl⟩
  | left + 1, r, s, h => by
    obtain ⟨e, pat, he, hw⟩ := h.walkSlots (r := r) (left := 8) (i := 0)
    by_cases hended : e = .ended
    · subst hended
      rw [walkRows_of_ended hw]
      exact (walkRows (s := { s with pat := pat }) h).of_pat
    · exact ⟨e, pat, he, walkRows_of_stopped hw hended⟩

/-- No Job, or `A_OUTCAP = 0`, leaves DECODE nothing to test. -/
theorem nothingToTest_outputCap (h : s.njobs = 0 ∨ s.staging.outCap = 0) : NothingToTest (outputCap s) s :=
  h.imp_right fun hcap => by simp [outputCap, hcap]

/-- Settles O44: the walk over all rows tests nothing, and DECODE ends as after any walk that stays in RAW. -/
theorem decodeWithNothingToTest : Obligations.DecodeWithNothingToTest := by
  intro s hframe h
  obtain ⟨e, pat, he, hw⟩ := (nothingToTest_outputCap h).walkRows (left := rowCount s.geom) (r := 0)
  exact ⟨_, exec_decode_of_done hframe hw he, rfl⟩

end Sys2Proof.Machine
end
